-- ==== Sys2Proof/Word.lean ====
section
/-! DEFINITION. The words of the LDG-216: bytes, turns, station sets, station and zone numbers.

A turn, a check value and a set of stations are bit vectors because the manual gives them as bits: they travel as
16-bit values (R181), turns are compared modulo 65536 (Section 0.6), and in a station set bit k stands for
station k. Station and zone numbers are bounded numbers. -/

namespace Sys2Proof

/-- A byte of the line or of the host port (R123, R159). -/
abbrev Byte := BitVec 8

/-- A turn, 0 to 65535, modulo 65536 (R28, R181). -/
abbrev Turn := BitVec 16

/-- A check value, a 16-bit cyclic redundancy check (R161). -/
abbrev Check := BitVec 16

/-- A set of stations: bit k is 1 when station k is in the set (R181). -/
abbrev StationSet := BitVec 16

/-- A station number, 0 to 15 (Section 0.5). -/
abbrev Station := Fin 16

/-- A zone number, 0 to 63 (R1). -/
abbrev Zone := Fin 64

end Sys2Proof
end

