-- ==== Sys2Proof/Syntax.lean ====
section
/-! DEFINITION. The commands of the block: one constructor of `Instr` for each row of spec/opcode_table.json.

The table gives its rows no operands and no bits. The operands below are what the event of the row carries by the
rules it cites: the bytes of a host command (R192), the strap pins and LRX at a pin reset (R140, R145), and what LRX
showed of the pulses and recessive stretches that the event is about (R145, R148 to R150). Lengths are in fortieths of a
quantum, the coarsest unit in which every window of Section 7 is a whole number: 1/8Q is 5, 0.5Q is 20, 1.4Q is 56, 40Q is
1600 (log entry 2). -/

namespace Sys2Proof

/-- What LRX shows between two edges of the filtered level (R145): the lengths of its raw runs in fortieths of Q, the
first at the level of the stretch, the next at the other level, and so on. The runs at the other level are the spikes or
dropouts that the glitch filter does not let through. -/
abbrev Stretch := List Nat

/-- What has no place in its phase (R152): a pulse, with the recessive stretch before it, or a recessive stretch inside a
frame that ends in a dominant edge at a point of Table 7.2-3 that reads damage. -/
inductive DamageCause where
  | pulse (gap pulse : Stretch)
  | stretch (gap : Stretch)
  deriving DecidableEq, Repr

/-- Which of the sender's tests failed (Table 8.7-1), with what LRX showed up to there. -/
inductive FaultForm where
  /-- The line went recessive before the drive of the pulse was due to end, after this pulse. -/
  | early (pulse : Stretch)
  /-- The line was still dominant after the drive of the pulse had ended. -/
  | late
  /-- The line went dominant in the sender's recessive quantum, earlier than 0.5Q, after this stretch. -/
  | edge (gap : Stretch)
  /-- The Line Interface reports damage, with this cause. -/
  | damaged (cause : DamageCause)
  /-- No pulse had begun on the line when the drive of the symbol ended. -/
  | absent
  deriving DecidableEq, Repr

/-- The straps as sampled at a release of RESETN (R140): the station number SN3..SN0 and the quantum code QS1..QS0. -/
structure Straps where
  station : Station
  quantum : Fin 4
  deriving DecidableEq, Repr

/-- The commands: one constructor for each row of spec/opcode_table.json, in the table's order. -/
inductive Instr where
  /-- PIN_RESET_ASSERT (R141). -/
  | pinResetAssert
  /-- PIN_RESET_RELEASE (R141), with the straps as sampled (R140), and whether LRX is LOW there (R145). -/
  | pinResetRelease (straps : Straps) (lrxLow : Bool)
  /-- STATUS (R128). -/
  | status
  /-- STATUS_REPLY_END (R129). -/
  | statusReplyEnd
  /-- CONFIGURE (R130), with the wait limit and the options byte. -/
  | configure (limit options : Byte)
  /-- JOIN (R52). -/
  | join
  /-- SUBMIT (R100), with the kind, tag, zone and mode bytes. -/
  | submit (kind tag zone mode : Byte)
  /-- WITHDRAW (R103), with the tag. -/
  | withdraw (tag : Byte)
  /-- FETCH (R134). -/
  | fetch
  /-- FETCH_REPLY_END (R134). -/
  | fetchReplyEnd
  /-- READ_ZONE (R133), with the zone byte. -/
  | readZone (zone : Byte)
  /-- RESTART (R142). -/
  | restart
  /-- BAD_COMMAND (R124), with the unknown command code. -/
  | badCommand (code : Byte)
  /-- TRANSACTION_END (R126), with whether LRX is LOW there, which counts where a RESTART is carried out (R142, R145). Where
  it is left out, LRX is recessive. -/
  | transactionEnd (lrxLow : Bool := false)
  /-- LINE_DOMINANT (R157). -/
  | lineDominant
  /-- OPEN (R162), with the pulse. -/
  | openPulse (pulse : Stretch)
  /-- FRAME_CLOSE (R163). -/
  | frameClose
  /-- OWN_SLOT_DRIVE (R150), with the stretches of the filtered level since the last slot report (before the first, since the
  CLOSE) up to the start of the own slot: the one under way there, and those after it. Where they are left out, the own slot
  begins at that report. -/
  | ownSlotDrive (first : Stretch := []) (later : List Stretch := [])
  /-- SLOT_READ (R150), with the stretches of the filtered level since the report before (for slot 0, since the CLOSE) up to
  this report: the one under way there, and those after it. -/
  | slotRead (first : Stretch) (later : List Stretch)
  /-- REST_END (R151). -/
  | restEnd
  /-- YIELD_LAPSE (R167). -/
  | yieldLapse
  /-- FRAME_TAKE (R169). -/
  | frameTake
  /-- ARBITRATION_LOST (R171). -/
  | arbitrationLost
  /-- BIT_FAULT (R172), with the test that failed. -/
  | bitFault (form : FaultForm)
  /-- HALT (R153), with the pulse. -/
  | halt (pulse : Stretch)
  /-- HALT_REST_END (R153). -/
  | haltRestEnd
  /-- DAMAGE (R152), with its cause. -/
  | damage (cause : DamageCause)
  /-- SYNC_QUIET (R154). -/
  | syncQuiet
  /-- LINE_STUCK (R155). -/
  | lineStuck
  /-- LINE_CLEAR (R156). -/
  | lineClear
  /-- WAIT_PROBE_RUN_OUT (R50). -/
  | waitProbeRunOut
  /-- COPY_TIMER_EXPIRY (R92). -/
  | copyTimerExpiry
  /-- DATA_BIT (R162), with the recessive stretch before the pulse and the pulse. -/
  | dataBit (gap pulse : Stretch)
  /-- BIT_DRIVE (R147). -/
  | bitDrive
  /-- QUIET_COUNT_RESET (R154), with the pulse. -/
  | quietCountReset (pulse : Stretch)
  /-- TRANSACTION_OPEN (R123). -/
  | transactionOpen
  /-- SCK_RISING_EDGE (R123), with the level on SDI. -/
  | sckRisingEdge (sdi : Bool)
  deriving DecidableEq, Repr

end Sys2Proof
end

