-- ==== Sys2Proof/Decode.lean ====
section
/-! DEFINITION. Decoding of a table word: spec/opcode_table.json gives none of its rows any bits, so no word spells a
command. -/

namespace Sys2Proof

/-- The command that a word of the opcode table's bits spells: none, for every word (the table gives no row bits). -/
def decodeTableWord (_nbits _w : Nat) : Option Instr := none

end Sys2Proof
end

