-- ==== Sys2Proof/Config.lean ====
section
/-! DEFINITION. The free values of the model: what the manual leaves open has no body here, so no proof can see it. -/

namespace Sys2Proof

/-- Free choices of an order that the manual leaves open, one for each use (`State.freeUsed` counts the uses):
the order in which notices of two blocks join the notice queue where a rule says 'either order' (R44, R72, R136),
and the order of two timer expiries that fall together in one quantum (R50). DESIGN CHOICE, log entry 4. -/
opaque Config.freeChoice : Nat → Bool

/-- The level on SDO while CSN is LOW and the host port disregards the transaction (R141 gives none).
DESIGN CHOICE, log entry 5. -/
opaque Config.sdoWhileDisregarded : Bool

end Sys2Proof
end

