-- ==== Sys2Proof/Machine/State.lean ====
section
/-! DEFINITION. The state of the station controller, block by block (Table 0.3-1), and its values after reset.

Each block's structure holds what the manual says that block owns. Everything is plain data. Values that the manual
defines from others (the levels of ATTN, LTX and SDO, the busy test of a zone) are computed in Flags.lean and are not
held twice. -/

namespace Sys2Proof.Machine

/-! ### The zone table (Section 1) -/

/-- The mode of a holding or of a waiting entry (Section 0.1, R1). -/
inductive Mode where
  | exclusive
  | shared
  deriving DecidableEq, Repr

/-- The state of a zone (Table 1.1-1). -/
inductive ZoneState where
  | free
  | exclusive
  | shared
  deriving DecidableEq, Repr

/-- A waiting entry: one station and the mode it asked for (R1). -/
structure Waiting where
  station : Station
  mode : Mode
  deriving DecidableEq, Repr

/-- A zone record (Table 1.1-1). The queue's head is the oldest entry. -/
structure ZoneRec where
  state : ZoneState
  holders : StationSet
  queue : List Waiting
  deriving DecidableEq, Repr

/-- The Zone Table Unit: the 64 zone records and the free count of the pool of waiting entries (R1, R4). -/
structure Ztu where
  zones : Vector ZoneRec 64
  free : Nat
  deriving DecidableEq, Repr

/-! ### Frames (Section 8) -/

/-- What an order frame asks for: its kind, with the zone and mode its body carries (R8, R183). -/
inductive OrderOp where
  | claim (zone : Zone) (mode : Mode)
  | release (zone : Zone)
  | touch
  | join
  | leave
  deriving DecidableEq, Repr

/-- The kind of a frame together with its body. The bodies of copy frames stay bytes: their content is examined by
the Copy Unit and the Zone Table Unit, not by the Frame Engine (R163). -/
inductive Payload where
  | order (op : OrderOp)
  | copyHead (body : List Byte)
  | copyPart (body : List Byte)
  | hail
  deriving DecidableEq, Repr

/-- A well-formed frame (R160): its kind and body, repeat number, originator and turn. Class, rank, body length and
check follow from these (Operands.lean). -/
structure Frame where
  payload : Payload
  repNo : Fin 4
  orig : Station
  turn : Turn
  deriving DecidableEq, Repr

/-- A roll as the Frame Engine hands it over: the roll set, or 'unreadable' (R40, R177). -/
inductive Roll where
  | unreadable
  | readable (set : StationSet)
  deriving DecidableEq, Repr

/-! ### The Turn Controller (Sections 2 and 3) -/

/-- The station state (R51). -/
inductive StationState where
  | offline
  | hailing
  | founding
  | copying
  | joining
  | member
  | leaving
  deriving DecidableEq, Repr

/-- The last-applied record (R29). -/
structure LastApplied where
  orig : Station
  turn : Turn
  check : Check
  deriving DecidableEq, Repr

/-- The closure record (Table 2.1-1). `op` is the kind and body of the frame it describes, which the REPEAT of R41
needs; the table names every other field. -/
structure ClosureRecord where
  orig : Station
  turn : Turn
  check : Check
  op : OrderOp
  expected : StationSet
  lastRoll : Option Roll
  repSeen : Fin 4
  own : Bool
  foreign : Bool
  closed : Bool
  deriving DecidableEq, Repr

/-- The Turn Controller. `waitTimer` is the wait-probe timer, stopped or running with its count in quanta (R49). -/
structure Tc where
  state : StationState
  turn : Turn
  lastApplied : Option LastApplied
  roster : StationSet
  closure : Option ClosureRecord
  waitTimer : Option Nat
  deriving DecidableEq, Repr

/-! ### The Copy Unit (Section 4) -/

/-- The phase of the source's stream (Table 4.1-1). -/
inductive CopyPhase where
  | idle
  | head
  | parts
  deriving DecidableEq, Repr

/-- A copy record as it travels (Table 9.3-1): the zone byte and the two-bit state code are kept as received, since
the install checks them (R27, R190). -/
structure CopyRec where
  zone : Byte
  code : BitVec 2
  holders : StationSet
  queue : List Waiting
  deriving DecidableEq, Repr

/-- The copy image of the source (R77): the snapshot's turn, its records in ascending zone order, and the body of the
COPY-HEAD built at the snapshot, which the repeats of the head carry again. -/
structure CopyImage where
  turn : Turn
  recs : List CopyRec
  headBody : List Byte
  deriving DecidableEq, Repr

/-- A pending log entry (Table 4.4-1). -/
structure LogEntry where
  turn : Turn
  orig : Station
  op : OrderOp
  check : Check
  repSeen : Fin 4
  lastRoll : Option Roll
  closed : Bool
  deriving DecidableEq, Repr

/-- The requester's stream record (R84). -/
structure ReqStream where
  number : Byte
  snapTurn : Turn
  roster : StationSet
  partCount : Nat
  occupied : Nat
  nextPart : Nat
  deriving DecidableEq, Repr

/-- The Copy Unit (Table 4.1-1). The copy timer counts quanta. -/
structure Cu where
  waiting : StationSet
  streamNo : Byte
  phase : CopyPhase
  streamSet : StationSet
  partIndex : Nat
  partCount : Nat
  repNo : Fin 4
  image : Option CopyImage
  log : List LogEntry
  logging : Bool
  awaited : Option Station
  stream : Option ReqStream
  build : Option (List CopyRec)
  copyTimer : Option Nat
  deriving DecidableEq, Repr

/-! ### The Request Unit (Section 5) -/

/-- What a request asks for: its kind, with the zone and mode that kind has (Table 5.1-1). -/
inductive ReqOp where
  | claim (zone : Zone) (mode : Mode)
  | release (zone : Zone)
  | touch
  | leave
  deriving DecidableEq, Repr

/-- A request (Table 5.1-1). -/
structure Request where
  tag : Byte
  op : ReqOp
  tries : Nat
  onLine : Bool
  deriving DecidableEq, Repr

/-- A ticket: its status, and while WAITING or HOLDING the tag and mode of the CLAIM that set it (R110). -/
inductive Ticket where
  | none
  | waiting (tag : Byte) (mode : Mode)
  | holding (tag : Byte) (mode : Mode)
  deriving DecidableEq, Repr

/-- The Request Unit: the request queue (head first), the ticket table, the touch flag, and the on-line state and send
tries of the internal TOUCH (R98, R110, R119, R120). -/
structure Ru where
  queue : List Request
  tickets : Vector Ticket 64
  touchFlag : Bool
  touchOnLine : Bool
  touchTries : Nat
  deriving DecidableEq, Repr

/-! ### The Line Interface (Section 7) -/

/-- The phases within BUSY (R157). -/
inductive Phase where
  | pulse
  | frame
  | roll
  | rest
  | haltRest
  deriving DecidableEq, Repr

/-- The line state (R157). -/
inductive LineState where
  | unsynced
  | idle
  | busy (phase : Phase)
  | stuck
  deriving DecidableEq, Repr

/-- What the Line Interface can be asked to drive (R144). -/
inductive Symbol where
  | openSymbol
  | bit (b : Bool)
  | haltSymbol
  | slot
  deriving DecidableEq, Repr

/-- A drive of LTX under way (R147): the symbol, and the fortieths of Q for which it is still to be driven. -/
structure Drive where
  symbol : Symbol
  left : Nat
  deriving DecidableEq, Repr

/-- The Line Interface: the line state, the drive of LTX under way if any, the filtered level on LRX (`low` for dominant)
with the fortieths of Q it is known to have lasted (R145, R154, R155, R156), and the reading of the roll window (R150): where
its last report stands, in fortieths of Q from the start of the slot to be reported next, the fortieths known to have
passed since, how long a pulse read as too long, still on the line at that report, had lasted, and whether a pulse that is
no valid one of the slot before holds the line at the next slot's start. The quantum is the strap sample, held by the Host
Port. -/
structure Lif where
  line : LineState
  drive : Option Drive
  low : Bool
  lasted : Nat
  slotAt : Int
  sinceReport : Nat
  slotHeld : Option Nat
  slotSpoilt : Bool
  deriving DecidableEq, Repr

/-! ### The Frame Engine (Section 8) -/

/-- The reading of a roll slot (R150). -/
inductive SlotReading where
  | asserted
  | empty
  | damaged
  deriving DecidableEq, Repr

/-- The sources the selector serves (R169): the TC's REPEAT, the TC's JOIN, the RU's head request, the RU's internal
TOUCH, the CU's copy frame and the TC's HAIL. -/
inductive Source where
  | rept
  | join
  | request
  | touch
  | copy
  | hail
  deriving DecidableEq, Repr

/-- The frame in transmission (R170): the source it was taken from, the frame and its bits as built, how many of those bits
have been asked for (R144, R147), whether a bit fault has been found (its own HALT is asked for, R173), whether that fault
is a pulse that did not start within the own drive (R172), and whether its source has withdrawn it (R175). -/
structure Attempt where
  source : Source
  frame : Frame
  bits : List Bool
  driven : Nat
  faulted : Bool
  missed : Bool
  withdrawn : Bool
  deriving DecidableEq, Repr

/-- The frame in reception (R162): the bits received so far, the running check register, and the mark of whether the
station has been the frame's sender from its OPEN. -/
structure Reception where
  bits : List Bool
  crc : Check
  mark : Bool
  deriving DecidableEq, Repr

/-- A pending REPEAT: the frame as it will be sent, and its send tries (R41, R174). -/
structure RepeatPending where
  frame : Frame
  tries : Nat
  deriving DecidableEq, Repr

/-- To whom the roll of the frame last closed goes (R40, R75, R79, R87, R177): nobody; the TC for an order frame it
applied or recognised; the CU for the newest log entry, with the attempt's repeat number; the TC for the own HAIL; the
CU of a MEMBER for the HAIL of another station; the CU for a copy frame of its own stream. -/
inductive RollUse where
  | none
  | order
  | log (repNo : Fin 4)
  | ownHail
  | hail (hailer : Station)
  | ownCopy
  deriving DecidableEq, Repr

/-- The Frame Engine. `rept`, `join`, `hail` and `copy` are the frames pending from the TC and the CU with their try
counts (R174); `slots` are the slots of the roll window reported so far, in slot order; `slotRequest` is the request to
drive the own slot (R176); `yieldTimer` is stopped or running with its count in quanta (R167). -/
structure Fe where
  rept : Option RepeatPending
  join : Option Nat
  hail : Option Nat
  copy : Option Nat
  tx : Option Attempt
  rx : Option Reception
  rollUse : RollUse
  slots : List SlotReading
  slotRequest : Bool
  hold : Bool
  yieldTimer : Option Nat
  deriving DecidableEq, Repr

/-! ### The Host Port (Section 6) -/

/-- The result of an order edit (Table 1.10-1). -/
inductive EditOutcome where
  | granted
  | queued
  | refusedHeld
  | refusedWaiting
  | refusedPool
  | refusedNotMember
  | released
  | withdrawn
  | refusedNotHeld
  | done
  deriving DecidableEq, Repr

/-- The kinds of frame (Table 8.1-1). -/
inductive FrameKind where
  | claim
  | release
  | touch
  | join
  | leave
  | copyHead
  | copyPart
  | hail
  deriving DecidableEq, Repr

/-- The four reasons of a lag event (R64). -/
inductive LagReason where
  | gap
  | selfEvicted
  | staleSelf
  | rollUnreadable
  deriving DecidableEq, Repr

/-- The reasons of a copy failure (Table 4.6-1). -/
inductive CopyReason where
  | timeout
  | logFull
  | logGap
  | partMissed
  deriving DecidableEq, Repr

/-- The outcome or reason a notice carries (Table 9.5-4). `frame` is the last group of the table: the kind of a frame
given up, or the LEAVE of an own leave. -/
inductive Reason where
  | outcome (o : EditOutcome)
  | lagged (r : LagReason)
  | copy (r : CopyReason)
  | lag
  | abandoned
  | pinReset
  | softReset
  | frame (k : FrameKind)
  deriving DecidableEq, Repr

/-- The notice kinds (Table 6.8-2). -/
inductive NoticeKind where
  | ready
  | outcome
  | granted
  | lost
  | cancelled
  | sendFailed
  | founded
  | joined
  | left
  | lagged
  | copyRestart
  | peerJoined
  | peerLeft
  | peerEvicted
  | lineStuck
  | lineClear
  | duplicateSuspect
  deriving DecidableEq, Repr

/-- A notice record (Table 6.8-1). A field the kind does not use is absent (R135). -/
structure Notice where
  kind : NoticeKind
  tag : Option Byte := none
  request : Option FrameKind := none
  zone : Option Zone := none
  station : Option Station := none
  turn : Option Turn := none
  reason : Option Reason := none
  deriving DecidableEq, Repr

/-- The host commands with their operand bytes as received (Table 9.4-2); `bad` is any other command code (R124). -/
inductive HostCmd where
  | status
  | configure (limit options : Byte)
  | join
  | submit (kind tag zone mode : Byte)
  | withdraw (tag : Byte)
  | fetch
  | readZone (zone : Byte)
  | restart
  | bad (code : Byte)
  deriving DecidableEq, Repr

/-- A command that has been taken: the command, its reply (the reply code, then the data bytes) as fixed at the take,
the number of reply bits shifted out, whether it is a FETCH that reported a notice, and the number of notices discarded
since the take (R125, R129, R134). -/
structure Taken where
  cmd : HostCmd
  reply : List Byte
  shifted : Nat
  reported : Bool
  discards : Nat
  deriving DecidableEq, Repr

/-- The SPI transaction state (R123): the SDI bits sampled before the take, and the command taken, if any. -/
structure Txn where
  sampled : List Bool
  taken : Option Taken
  deriving DecidableEq, Repr

/-- The Host Port: the strap samples, the configuration values, the notice queue (oldest first) with the overflow flag
and count, the truncated flag, and the transaction (R123 to R140). -/
structure Hp where
  station : Station
  quantum : Fin 4
  waitLimit : Byte
  autoRejoin : Bool
  peerNotices : Bool
  notices : List Notice
  overflow : Bool
  overflowCount : Nat
  truncated : Bool
  txn : Option Txn
  deriving DecidableEq, Repr

/-- The levels of RESETN and CSN as the commands have reported them (R123, R141). -/
structure Pins where
  resetLow : Bool
  csnLow : Bool
  deriving DecidableEq, Repr

/-! ### The whole station -/

/-- The state of the block: the queue of waiting commands, the pins, the seven blocks of Table 0.3-1, and the model's
own count of the free choices used. -/
structure State where
  pending : List Instr
  pins : Pins
  lif : Lif
  fe : Fe
  tc : Tc
  ztu : Ztu
  cu : Cu
  ru : Ru
  hp : Hp
  freeUsed : Nat
  deriving DecidableEq, Repr

/-- No fault exists: the manual describes no event that stops the part. Nothing raises one. -/
inductive Fault where
  deriving DecidableEq, Repr

/-- The refusals. -/
inductive Refusal where
  /-- Raised by `exec` alone, for a row of the table that has no meaning yet. Safe: the machine stops. No arm of this
  model raises it. -/
  | notModelled (mnemonic : String)
  deriving DecidableEq, Repr

/-! ### Values after reset -/

/-- A FREE zone record (R25). -/
def ZoneRec.reset : ZoneRec := { state := .free, holders := 0, queue := [] }

/-- The zone table and the pool after reset and after a DISCARD (R25, R26). -/
def Ztu.reset : Ztu := { zones := Vector.replicate 64 ZoneRec.reset, free := 96 }

/-- The Turn Controller after reset (Table 2.1-2, R49, R51). -/
def Tc.reset : Tc :=
  { state := .offline, turn := 0, lastApplied := none, roster := 0, closure := none, waitTimer := none }

/-- The Copy Unit after reset (Table 4.1-1). -/
def Cu.reset : Cu :=
  { waiting := 0, streamNo := 0, phase := .idle, streamSet := 0, partIndex := 0, partCount := 0, repNo := 0,
    image := none, log := [], logging := false, awaited := none, stream := none, build := none, copyTimer := none }

/-- The Request Unit after reset (R122). -/
def Ru.reset : Ru :=
  { queue := [], tickets := Vector.replicate 64 .none, touchFlag := false, touchOnLine := false, touchTries := 0 }

/-- The Line Interface after reset, with the filtered level that stands there counted from the reset on (R145, R158). -/
def Lif.reset (low : Bool) : Lif :=
  { line := .unsynced, drive := none, low := low, lasted := 0, slotAt := 0, sinceReport := 0, slotHeld := none,
    slotSpoilt := false }

/-- The Frame Engine after reset (R180). -/
def Fe.reset : Fe :=
  { rept := none, join := none, hail := none, copy := none, tx := none, rx := none, rollUse := .none, slots := [],
    slotRequest := false, hold := false, yieldTimer := none }

/-- The READY notice (Table 6.8-2). -/
def readyNotice (sn : Station) (r : Reason) : Notice := { kind := .ready, station := some sn, reason := some r }

/-- The Host Port after a pin reset with the straps `sn` and `qs` (R140, R141, Table 6.4-1). -/
def Hp.pinReset (sn : Station) (qs : Fin 4) : Hp :=
  { station := sn, quantum := qs, waitLimit := 16, autoRejoin := true, peerNotices := false,
    notices := [readyNotice sn .pinReset], overflow := false, overflowCount := 0, truncated := false, txn := none }

/-- The machine right after the release of RESETN. The straps read 0, CSN is HIGH and LRX recessive (all are pins, outside
the part: DESIGN CHOICE, log entry 1), and no command waits. -/
def State.reset : State :=
  { pending := [], pins := { resetLow := false, csnLow := false }, lif := Lif.reset false, fe := Fe.reset, tc := Tc.reset,
    ztu := Ztu.reset, cu := Cu.reset, ru := Ru.reset, hp := Hp.pinReset 0 0, freeUsed := 0 }

end Sys2Proof.Machine
end

