-- ==== Sys2Proof/Machine/Operands.lean ====
section
/-! DEFINITION. Operand forms, encodings and readings: station sets, pulse and slot readings, bytes and bits, the check,
frames, copy records, host commands, replies and notice records (Sections 7, 8 and 9). -/

namespace Sys2Proof

/-! ### Station sets (R181) -/

/-- The station is in the set. -/
def StationSet.has (s : StationSet) (k : Station) : Bool := s.getLsbD k.val

/-- The set holding one station alone. -/
def StationSet.one (k : Station) : StationSet := BitVec.twoPow 16 k.val

/-- The set with the station added. -/
def StationSet.add (s : StationSet) (k : Station) : StationSet := s ||| StationSet.one k

/-- The members of the first set that are not in the second. -/
def StationSet.minus (s t : StationSet) : StationSet := s &&& ~~~t

/-- The set with the station taken out. -/
def StationSet.del (s : StationSet) (k : Station) : StationSet := StationSet.minus s (StationSet.one k)

/-- Every member of the first set is in the second. -/
def StationSet.within (s t : StationSet) : Bool := StationSet.minus s t == 0

/-- The members in ascending order. -/
def StationSet.members (s : StationSet) : List Station := (List.finRange 16).filter (StationSet.has s)

/-- The lowest-numbered member, if any (R55, R75). -/
def StationSet.lowest (s : StationSet) : Option Station := (List.finRange 16).find? (StationSet.has s)

namespace Machine

/-! ### Bytes and bits (R123, R159) -/

/-- The bits of a byte, most significant first. -/
def byteBits (b : Byte) : List Bool :=
  [b.getLsbD 7, b.getLsbD 6, b.getLsbD 5, b.getLsbD 4, b.getLsbD 3, b.getLsbD 2, b.getLsbD 1, b.getLsbD 0]

/-- The bits of a list of bytes, in the order they travel. -/
def bitsOf (bs : List Byte) : List Bool := bs.flatMap byteBits

/-- The byte of eight bits, most significant first. -/
def byteOf (b7 b6 b5 b4 b3 b2 b1 b0 : Bool) : Byte :=
  BitVec.ofBool b7 ++ BitVec.ofBool b6 ++ BitVec.ofBool b5 ++ BitVec.ofBool b4 ++ BitVec.ofBool b3 ++
    BitVec.ofBool b2 ++ BitVec.ofBool b1 ++ BitVec.ofBool b0

/-- The whole bytes of a list of bits; bits that complete no byte are left out. -/
def bytesOf : List Bool → List Byte
  | b7 :: b6 :: b5 :: b4 :: b3 :: b2 :: b1 :: b0 :: rest => byteOf b7 b6 b5 b4 b3 b2 b1 b0 :: bytesOf rest
  | _ => []

/-- The two bytes of a 16-bit value, more significant first (R181). -/
def wordBytes (w : BitVec 16) : List Byte := [w.extractLsb' 8 8, w.extractLsb' 0 8]

/-- The 16-bit value of two bytes, more significant first (R181). -/
def wordOf (hi lo : Byte) : BitVec 16 := hi ++ lo

/-! ### The check (R161) -/

/-- One bit taken into the check register (R161). -/
def crcBit (reg : Check) (b : Bool) : Check :=
  if (reg.msb != b) then (reg <<< 1) ^^^ 0x1021#16 else reg <<< 1

/-- The check register over a list of bits. -/
def crcBits (reg : Check) (bits : List Bool) : Check := bits.foldl crcBit reg

/-- The check of a list of bytes: the register starts at FFFFh (R161). -/
def crcBytes (bs : List Byte) : Check := crcBits 0xFFFF#16 (bitsOf bs)

/-! ### The glitch filter (R145), in fortieths of Q -/

/-- Runs that alternate between the other level and the stretch's own, none at the other level long enough to pass the
filter (1/8Q), and the last at the stretch's own. -/
def glitchesOnly : List Nat → Bool
  | [] => true
  | [_] => false
  | other :: _ :: rest => other < 5 && glitchesOnly rest

/-- The length on the filtered level of a stretch whose first edge came before: its glitches are part of it (R145). -/
def Stretch.running : Stretch → Option Nat
  | [] => some 0
  | first :: rest => if glitchesOnly rest then some (first + rest.sum) else none

/-- The length on the filtered level of a whole stretch: the level has held for 1/8Q at its beginning, so that the filter
has let the edge through (R145). -/
def Stretch.seen : Stretch → Option Nat
  | [] => none
  | first :: rest => if 5 ≤ first && glitchesOnly rest then some (first + rest.sum) else none

/-- The lengths of stretches of the filtered level that follow one another: the first began before, the last is under
way. -/
def stretchLengths (first : Stretch) (later : List Stretch) : Option (List Nat) :=
  (Stretch.running first).bind fun n => (laterLengths later).map (n :: ·)
where
  laterLengths : List Stretch → Option (List Nat)
    | [] => some []
    | [last] => (Stretch.running last).map fun n => [n]
    | r :: rest => (Stretch.seen r).bind fun n => (laterLengths rest).map (n :: ·)

/-! ### Pulses, stretches and slots (R148, R149, R150), in fortieths of Q -/

/-- The readings of a dominant pulse by its length (Table 7.2-2). -/
inductive PulseReading where
  | unseen
  | damage
  | bit (b : Bool)
  | openSymbol
  | halt
  | stuck
  deriving DecidableEq, Repr

/-- Table 7.2-2. -/
def readPulse (len : Nat) : PulseReading :=
  if len < 5 then .unseen
  else if len < 20 then .damage
  else if len ≤ 56 then .bit false
  else if len < 64 then .damage
  else if len ≤ 104 then .bit true
  else if len < 160 then .damage
  else if len ≤ 240 then .openSymbol
  else if len < 400 then .damage
  else if len < 1600 then .halt
  else .stuck

/-- The recessive stretch between two pulses of a frame is a separation (Table 7.2-3). -/
def isSeparation (gap : Nat) : Bool := 20 ≤ gap && gap ≤ 60

/-- A dominant edge at this point after a pulse of a frame reads damage (Table 7.2-3). From 140 on the CLOSE has been
reported, so no later edge is one inside the frame. -/
def isGapDamage (gap : Nat) : Bool := gap < 20 || (60 < gap && gap < 140)

/-- The dominant fortieths of a symbol as driven (Table 7.2-1). -/
def Symbol.length : Symbol → Nat
  | .openSymbol => 200
  | .bit false => 40
  | .bit true => 80
  | .haltSymbol => 480
  | .slot => 40

/-- The sender's points of a symbol (Table 8.7-1): a pulse shorter than the first went recessive too early, one longer than
the second was still dominant too late. -/
def Symbol.window : Symbol → Nat × Nat
  | .openSymbol => (180, 220)
  | .bit false => (20, 60)
  | .bit true => (60, 100)
  | .haltSymbol => (0, 480)
  | .slot => (0, 56)

/-- A dominant pulse of the roll window: where it begins, in fortieths of Q from the start of its slot, its length so far,
and whether it has ended (R150). -/
structure SlotPulse where
  start : Int
  len : Nat
  ended : Bool
  deriving DecidableEq, Repr

/-- The dominant pulses among stretches of the filtered level that follow one another from the point `pos`. -/
def pulsesFrom (pos : Int) (low : Bool) : List Nat → List SlotPulse
  | [] => []
  | n :: rest =>
    let later := pulsesFrom (pos + n) (!low) rest
    if low then { start := pos, len := n, ended := !rest.isEmpty } :: later else later

/-- The pulse begins in the first half of slot `k`; the first half of slot 0 begins 0.5Q early (R150). -/
def SlotPulse.inFirstHalf (k : Nat) (p : SlotPulse) : Bool :=
  (if k = 0 then -20 ≤ p.start else 0 ≤ p.start) && p.start < 40

/-- The reading of slot `k` from the pulses that begin in it and from whether a pulse that is no valid one of the slot before
holds the line at its start (R150): every case that is neither ASSERTED nor EMPTY is DAMAGED. -/
def readSlot (k : Nat) (held : Bool) (pulses : List SlotPulse) : SlotReading :=
  match held, pulses with
  | false, [] => .empty
  | false, [p] => if p.inFirstHalf k && p.ended && 20 ≤ p.len && p.len ≤ 56 then .asserted else .damaged
  | _, _ => .damaged

/-- The point at which a slot with these pulses is reported (R150): once the slot has ended, and each pulse that began in it
has ended or passed 1.4Q. -/
def slotDue (pulses : List SlotPulse) : Int :=
  pulses.foldl (fun due p => max due (p.start + ((if p.ended then min p.len 56 else 56 : Nat)))) 80

/-- The report of a slot: its reading, the level that stands there with how long it is known to have lasted, the time since
the report before, how long a pulse too long that is still on the line has lasted, and whether a pulse that is not valid
holds the line at the start of the next slot. -/
structure SlotReport where
  reading : SlotReading
  low : Bool
  lasted : Nat
  time : Nat
  held : Option Nat
  spoilt : Bool
  deriving DecidableEq, Repr

/-- The pulse holds the line where its slot ends and the next begins (R150). -/
def SlotPulse.runsOver (p : SlotPulse) : Bool := p.start < 80 && 80 < p.start + (p.len : Nat)

/-- How long the pulse too long that was on the line at the last report, `held` by then, has lasted by the end of the first
of the stretches since: 0 when there was none. -/
def carriedLength (held : Option Nat) (runs : List Nat) : Nat := (held.map fun n => n + runs.headD 0).getD 0

/-- The level at the end of the stretches since a report at which a pulse too long had lasted `held`: `true` for dominant. -/
def levelAfter (held : Option Nat) (runs : List Nat) : Bool := if runs.length % 2 = 1 then held.isSome else held.isNone

/-- How long that level is known to have lasted there. -/
def lastedAfter (held : Option Nat) (runs : List Nat) : Nat :=
  if held.isSome && runs.length == 1 then carriedLength held runs else runs.getLastD 0

/-- The report of slot `k` from the stretches of the filtered level since the report before, which stood at `pos`, with
`held` the length so far of a pulse too long on the line there, and `spoilt` that a pulse that was not valid held the line
at the slot's start (R150). Only the pulse of an ASSERTED slot may run on into the next slot without spoiling that one's
start (DEDUCED, log entry 28). None when the stretches do not end where the slot is due, or hold a pulse that reaches 10Q,
which is no slot's but ends the window. -/
def slotReport (k : Nat) (pos : Int) (held : Option Nat) (spoilt : Bool) (runs : List Nat) : Option SlotReport :=
  let pulses := pulsesFrom pos held.isSome runs
  let began := if held.isSome then pulses.drop 1 else pulses
  if pos + (runs.sum : Nat) = slotDue began ∧ began.all (fun p => p.start < 80) ∧ carriedLength held runs < 400 ∧
      runs ≠ [] then
    let reading := readSlot k (held.isSome || spoilt) began
    some { reading := reading
           low := levelAfter held runs
           lasted := lastedAfter held runs
           time := runs.sum
           held := if levelAfter held runs then some (lastedAfter held runs) else none
           spoilt := reading != .asserted && pulses.any SlotPulse.runsOver }
  else none

/-- The roll of sixteen slot readings, in slot order: the stations found asserted, or 'unreadable' when any slot is
DAMAGED (R177). -/
def rollOf (slots : List SlotReading) : Roll :=
  if slots.contains .damaged then .unreadable
  else .readable ((List.finRange 16).foldl
    (fun s k => if slots[k.val]? = some .asserted then StationSet.add s k else s) 0)

/-- The quantum in microseconds for each code of QS1..QS0 (Table 0.8-2). -/
def quantumMicros (qs : Fin 4) : Nat := 2 ^ (qs.val + 1)

/-! ### Code values (Table 9.1-1) -/

/-- The mode byte, 01h or 02h (R181). -/
def Mode.byte : Mode → Byte
  | .exclusive => 0x01#8
  | .shared => 0x02#8

/-- The mode a byte names (R181). -/
def modeOf (b : Byte) : Option Mode := if b = 0x01#8 then some .exclusive else if b = 0x02#8 then some .shared else none

/-- The mode bit of a waiting entry byte (Table 9.3-2). -/
def Mode.bit : Mode → Bool
  | .exclusive => false
  | .shared => true

/-- The mode of a waiting entry's mode bit (Table 9.3-2). -/
def modeOfBit (b : Bool) : Mode := if b then .shared else .exclusive

/-- The state a zone takes when it is granted in this mode (R6, R13). -/
def Mode.zoneState : Mode → ZoneState
  | .exclusive => .exclusive
  | .shared => .shared

/-- Zone state codes. -/
def ZoneState.code : ZoneState → BitVec 2
  | .free => 0
  | .exclusive => 1
  | .shared => 2

/-- Station state codes. -/
def StationState.code : StationState → Byte
  | .offline => 0
  | .hailing => 1
  | .founding => 2
  | .copying => 3
  | .joining => 4
  | .member => 5
  | .leaving => 6

/-- Line state codes. -/
def LineState.code : LineState → Byte
  | .unsynced => 0
  | .idle => 1
  | .busy _ => 2
  | .stuck => 3

/-- Frame kind codes. -/
def FrameKind.code : FrameKind → BitVec 4
  | .claim => 1
  | .release => 2
  | .touch => 3
  | .join => 4
  | .leave => 5
  | .copyHead => 8
  | .copyPart => 9
  | .hail => 12

/-- The zone number a byte names, when it is 0 to 63. -/
def zoneOf (b : Byte) : Option Zone := if h : b.toNat < 64 then some ⟨b.toNat, h⟩ else none

/-- A zone number as a byte. -/
def zoneByte (z : Zone) : Byte := BitVec.ofNat 8 z.val

/-- A station number as a byte. -/
def stationByte (k : Station) : Byte := BitVec.ofNat 8 k.val

/-! ### Frames (R159 to R163, R182, R183) -/

/-- The kind of an order frame. -/
def OrderOp.kind : OrderOp → FrameKind
  | .claim _ _ => .claim
  | .release _ => .release
  | .touch => .touch
  | .join => .join
  | .leave => .leave

/-- The zone an order frame names, if its kind has one. -/
def OrderOp.zone : OrderOp → Option Zone
  | .claim z _ => some z
  | .release z => some z
  | _ => none

/-- The body of an order frame (Table 9.2-2). -/
def OrderOp.body : OrderOp → List Byte
  | .claim z m => [zoneByte z, m.byte]
  | .release z => [zoneByte z]
  | _ => []

/-- The order operation a kind code and a body spell, when the body has the length, the zone and the mode its kind
requires (Tables 8.1-2, 8.3-1, 9.2-2). -/
def orderOf (kind : BitVec 4) (body : List Byte) : Option OrderOp :=
  if kind = FrameKind.claim.code then
    match body with
    | [z, m] => (zoneOf z).bind fun zone => (modeOf m).map fun mode => .claim zone mode
    | _ => none
  else if kind = FrameKind.release.code then
    match body with
    | [z] => (zoneOf z).map .release
    | _ => none
  else if body ≠ [] then none
  else if kind = FrameKind.touch.code then some .touch
  else if kind = FrameKind.join.code then some .join
  else if kind = FrameKind.leave.code then some .leave
  else none

/-- The kind of a frame. -/
def Payload.kind : Payload → FrameKind
  | .order op => op.kind
  | .copyHead _ => .copyHead
  | .copyPart _ => .copyPart
  | .hail => .hail

/-- The body of a frame. -/
def Payload.body : Payload → List Byte
  | .order op => op.body
  | .copyHead body => body
  | .copyPart body => body
  | .hail => []

/-- The class of a frame: 3 REPEAT, 2 ORDER, 1 COPY, 0 HAIL (Tables 8.1-1 and 8.1-2). -/
def Frame.cls (f : Frame) : BitVec 2 :=
  match f.payload with
  | .order _ => if f.repNo = 0 then 2 else 3
  | .copyHead _ => 1
  | .copyPart _ => 1
  | .hail => 0

/-- The rank of a station (R160). -/
def rankOf (k : Station) : BitVec 4 := BitVec.ofNat 4 (15 - k.val)

/-- Byte 0 of the header: class, rank, repeat number (Table 9.2-1). -/
def Frame.byte0 (f : Frame) : Byte := f.cls ++ rankOf f.orig ++ BitVec.ofNat 2 f.repNo.val

/-- The bytes the check covers: header byte 1 to the last body byte (R161, Table 9.2-1). -/
def Frame.checked (f : Frame) : List Byte :=
  (f.payload.kind.code ++ BitVec.ofNat 4 f.orig.val) :: BitVec.ofNat 8 f.payload.body.length ::
    (wordBytes f.turn ++ f.payload.body)

/-- The check of a frame (R161). -/
def Frame.check (f : Frame) : Check := crcBytes f.checked

/-- The bytes of a frame between its OPEN and its CLOSE (R182). -/
def Frame.bytes (f : Frame) : List Byte := f.byte0 :: (f.checked ++ wordBytes f.check)

/-- The bits of a frame in the order they are sent (R159). -/
def Frame.bits (f : Frame) : List Bool := bitsOf f.bytes

/-- The frame is of class ORDER or REPEAT (R165). -/
def Frame.isOrder (f : Frame) : Bool :=
  match f.payload with
  | .order _ => true
  | _ => false

/-- The payload that a class, a kind and a body spell, when Table 8.1-2 admits them together. -/
def payloadOf (cls : BitVec 2) (kind : BitVec 4) (body : List Byte) : Option Payload :=
  if cls = 2 ∨ cls = 3 then (orderOf kind body).map .order
  else if cls = 1 then
    if kind = FrameKind.copyHead.code ∧ body.length = 9 then some (.copyHead body)
    else if kind = FrameKind.copyPart.code ∧ 6 ≤ body.length then some (.copyPart body)
    else none
  else if kind = FrameKind.hail.code ∧ body = [] then some .hail
  else none

/-- The repeat number is one its class admits: 0 for ORDER, 1 to 3 for REPEAT (Table 8.3-1). -/
def repAdmitted (cls rep : BitVec 2) : Bool :=
  if cls = 2 then rep == 0 else if cls = 3 then rep != 0 else true

/-- The frame that header bytes and a body spell, when it is well-formed (Table 8.3-1). -/
def frameOf (b0 b1 b3 b4 : Byte) (body : List Byte) : Option Frame :=
  let cls := b0.extractLsb' 6 2
  let rank := b0.extractLsb' 2 4
  let rep := b0.extractLsb' 0 2
  let orig : Station := (b1.extractLsb' 0 4).toFin
  if rank ≠ rankOf orig ∨ repAdmitted cls rep = false ∨ 24 < body.length then none
  else (payloadOf cls (b1.extractLsb' 4 4) body).map fun p =>
    { payload := p, repNo := rep.toFin, orig := orig, turn := wordOf b3 b4 }

/-- The body length L that the third header byte gives, once it is complete (R162). -/
def bodyLengthOf (bits : List Bool) : Nat :=
  match bytesOf (bits.take 24) with
  | [_, _, b2] => b2.toNat
  | _ => 0

/-- The acceptance test at the CLOSE (R163), from the bits received and the running check register: a whole number of
bytes, at least 40 bits and 8 x (7 + L) of them, the check computed equal to the check received, and a well-formed
frame. -/
def acceptFrame (bits : List Bool) (crc : Check) : Option Frame :=
  if bits.length % 8 ≠ 0 ∨ bits.length < 40 ∨ bits.length ≠ 8 * (7 + bodyLengthOf bits) then none
  else
    match bytesOf bits with
    | b0 :: b1 :: b2 :: b3 :: b4 :: rest =>
      match rest.drop b2.toNat with
      | [c1, c0] => if wordOf c1 c0 = crc then frameOf b0 b1 b3 b4 (rest.take b2.toNat) else none
      | _ => none
    | _ => none

/-- The next bit received lies in the bytes the check covers: from header byte 1 to the last body byte (R161, R162).
The body length decides from the end of the header on. -/
def inCheckedBytes (bits : List Bool) : Bool :=
  8 ≤ bits.length && (bits.length < 40 || bits.length < 8 * (5 + bodyLengthOf bits))

/-- An empty frame in reception (R162). -/
def Reception.start (mark : Bool) : Reception := { bits := [], crc := 0xFFFF#16, mark := mark }

/-- A bit appended to the frame in reception, with the running check register (R162). -/
def Reception.push (r : Reception) (b : Bool) : Reception :=
  { r with bits := r.bits ++ [b], crc := if inCheckedBytes r.bits then crcBit r.crc b else r.crc }

/-- The order operation of a request (R106). -/
def ReqOp.order : ReqOp → OrderOp
  | .claim z m => .claim z m
  | .release z => .release z
  | .touch => .touch
  | .leave => .leave

/-- The kind of a request. -/
def ReqOp.kind (op : ReqOp) : FrameKind := op.order.kind

/-- The zone of a request, present for CLAIM and RELEASE (Table 5.1-1). -/
def ReqOp.zone (op : ReqOp) : Option Zone := op.order.zone

/-! ### Copy frames (R184, R185, R188 to R190) -/

/-- A waiting entry byte (Table 9.3-2). -/
def Waiting.byte (w : Waiting) : Byte := BitVec.ofNat 4 w.station.val ++ (0#3 ++ BitVec.ofBool w.mode.bit)

/-- The waiting entry of a byte; bits 3 to 1 are not examined (R190). -/
def waitingOf (b : Byte) : Waiting := { station := (b.extractLsb' 4 4).toFin, mode := modeOfBit (b.getLsbD 0) }

/-- The copy record of a zone that is not FREE (R188). -/
def copyRecOf (z : Zone) (r : ZoneRec) : CopyRec :=
  { zone := zoneByte z, code := r.state.code, holders := r.holders, queue := r.queue }

/-- The bytes of a copy record (Table 9.3-1). -/
def CopyRec.bytes (r : CopyRec) : List Byte :=
  r.zone :: (r.code ++ (0#1 ++ BitVec.ofNat 5 r.queue.length)) :: (wordBytes r.holders ++ r.queue.map Waiting.byte)

/-- The size of a copy record in bytes (R78). -/
def CopyRec.size (r : CopyRec) : Nat := 4 + r.queue.length

/-- One copy record read from the front of a part's bytes, by its queue length alone (R190). -/
def readRec : List Byte → Option (CopyRec × List Byte)
  | z :: c :: hi :: lo :: rest =>
    let n := (c.extractLsb' 0 5).toNat
    if rest.length < n then none
    else some ({ zone := z, code := c.extractLsb' 6 2, holders := wordOf hi lo, queue := (rest.take n).map waitingOf },
      rest.drop n)
  | _ => none

/-- The records that fill a list of bytes exactly, reading at most `fuel` of them. -/
def readRecsUpTo : Nat → List Byte → Option (List CopyRec)
  | _, [] => some []
  | 0, _ => none
  | fuel + 1, bs =>
    match readRec bs with
    | none => none
    | some (r, rest) => (readRecsUpTo fuel rest).map (r :: ·)

/-- The records of a part's bytes, when they fill them exactly (R90). -/
def readRecs (bs : List Byte) : Option (List CopyRec) := readRecsUpTo bs.length bs

/-- Whole records packed greedily into parts of at most 22 bytes (R78); `cur` is the part being filled and `size` its
bytes. -/
def packFrom (cur : List CopyRec) (size : Nat) : List CopyRec → List (List CopyRec)
  | [] => if cur = [] then [] else [cur]
  | r :: rs => if size + r.size ≤ 22 then packFrom (cur ++ [r]) (size + r.size) rs else cur :: packFrom [r] r.size rs

/-- The parts of a snapshot's records (R78). -/
def packParts (recs : List CopyRec) : List (List CopyRec) := packFrom [] 0 recs

/-- The fields of a COPY-HEAD's body (Table 9.2-3). -/
structure HeadBody where
  number : Byte
  snapTurn : Turn
  roster : StationSet
  requesters : StationSet
  partCount : Nat
  occupied : Nat
  deriving DecidableEq, Repr

/-- The body of a COPY-HEAD (Table 9.2-3). -/
def HeadBody.bytes (h : HeadBody) : List Byte :=
  h.number :: (wordBytes h.snapTurn ++ wordBytes h.roster ++ wordBytes h.requesters ++
    [BitVec.ofNat 8 h.partCount, BitVec.ofNat 8 h.occupied])

/-- The fields of a COPY-HEAD's body as received (Table 9.2-3). -/
def headOf : List Byte → Option HeadBody
  | [n, t1, t0, r1, r0, q1, q0, p, z] =>
    some { number := n, snapTurn := wordOf t1 t0, roster := wordOf r1 r0, requesters := wordOf q1 q0,
           partCount := p.toNat, occupied := z.toNat }
  | _ => none

/-- The counts of a head are consistent (R187). -/
def HeadBody.consistent (h : HeadBody) : Bool :=
  h.partCount ≤ 64 && h.occupied ≤ 64 && ((h.partCount == 0) == (h.occupied == 0)) && h.partCount ≤ h.occupied

/-- The body of COPY-PART `i` of a stream (Table 9.2-4). -/
def partBody (number : Byte) (i : Nat) (recs : List CopyRec) : List Byte :=
  number :: BitVec.ofNat 8 i :: recs.flatMap CopyRec.bytes

/-! ### Host commands and replies (R124, R191 to R201) -/

/-- The bytes of a command on SDI: its code, then its operands (Table 9.4-2). -/
def HostCmd.bytes : HostCmd → List Byte
  | .status => [0x10#8]
  | .configure limit options => [0x11#8, limit, options]
  | .join => [0x20#8]
  | .submit kind tag zone mode => [0x30#8, kind, tag, zone, mode]
  | .withdraw tag => [0x31#8, tag]
  | .fetch => [0x40#8]
  | .readZone zone => [0x41#8, zone]
  | .restart => [0x5A#8]
  | .bad code => [code]

/-- The number of operand bytes of a command code; none for a code that names no command (Table 6.1-1). -/
def operandCount (code : Byte) : Option Nat :=
  if code = 0x10#8 then some 0
  else if code = 0x11#8 then some 2
  else if code = 0x20#8 then some 0
  else if code = 0x30#8 then some 4
  else if code = 0x31#8 then some 1
  else if code = 0x40#8 then some 0
  else if code = 0x41#8 then some 1
  else if code = 0x5A#8 then some 0
  else none

/-- The command that whole bytes complete, at the byte that completes it (R124): none while bytes are missing. -/
def hostCmdOf : List Byte → Option HostCmd
  | [c] =>
    if c = 0x10#8 then some .status
    else if c = 0x20#8 then some .join
    else if c = 0x40#8 then some .fetch
    else if c = 0x5A#8 then some .restart
    else if operandCount c = none then some (.bad c)
    else none
  | [c, a] => if c = 0x31#8 then some (.withdraw a) else if c = 0x41#8 then some (.readZone a) else none
  | [c, a, b] => if c = 0x11#8 then some (.configure a b) else none
  | [c, k, t, z, m] => if c = 0x30#8 then some (.submit k t z m) else none
  | _ => none

/-- The reply codes (Table 9.4-4). -/
inductive ReplyCode where
  | ok
  | full
  | state
  | zone
  | tag
  | busyZone
  | inFlight
  | unknownTag
  | empty
  | badCommand
  | badOperand
  deriving DecidableEq, Repr

/-- The values of the reply codes (Table 9.4-4). -/
def ReplyCode.byte : ReplyCode → Byte
  | .ok => 0x01#8
  | .full => 0x02#8
  | .state => 0x03#8
  | .zone => 0x04#8
  | .tag => 0x05#8
  | .busyZone => 0x06#8
  | .inFlight => 0x07#8
  | .unknownTag => 0x08#8
  | .empty => 0x09#8
  | .badCommand => 0x0E#8
  | .badOperand => 0x0F#8

/-- The options byte (Table 9.4-3). -/
def optionsByte (autoRejoin peerNotices : Bool) : Byte :=
  0#6 ++ (BitVec.ofBool peerNotices ++ BitVec.ofBool autoRejoin)

/-- An options byte has no bit set other than the two options (R130). -/
def optionsValid (b : Byte) : Bool := b.extractLsb' 2 6 == 0

/-- The request operation that the SUBMIT operands name, when the kind, and for CLAIM the mode, are valid; the zone
comes as it was sent (R195). -/
inductive SubmitKind where
  | claim (mode : Mode)
  | release
  | touch
  | leave
  deriving DecidableEq, Repr

/-- The kind and mode operands of SUBMIT (R100 check 2, R195). -/
def submitKindOf (kind mode : Byte) : Option SubmitKind :=
  if kind = 0x01#8 then (modeOf mode).map .claim
  else if kind = 0x02#8 then some .release
  else if kind = 0x03#8 then some .touch
  else if kind = 0x05#8 then some .leave
  else none

/-- Notice kind codes (Table 9.5-3). -/
def NoticeKind.code : NoticeKind → Byte
  | .ready => 0x01#8
  | .outcome => 0x02#8
  | .granted => 0x03#8
  | .lost => 0x04#8
  | .cancelled => 0x05#8
  | .sendFailed => 0x06#8
  | .founded => 0x07#8
  | .joined => 0x08#8
  | .left => 0x09#8
  | .lagged => 0x0A#8
  | .copyRestart => 0x0B#8
  | .peerJoined => 0x0C#8
  | .peerLeft => 0x0D#8
  | .peerEvicted => 0x0E#8
  | .lineStuck => 0x0F#8
  | .lineClear => 0x10#8
  | .duplicateSuspect => 0x11#8

/-- Outcome codes; REFUSED-NOT-MEMBER is never carried by a notice and has none (R199). -/
def EditOutcome.code : EditOutcome → Option Byte
  | .granted => some 0x01#8
  | .queued => some 0x02#8
  | .refusedHeld => some 0x03#8
  | .refusedWaiting => some 0x04#8
  | .refusedPool => some 0x05#8
  | .refusedNotMember => none
  | .released => some 0x07#8
  | .withdrawn => some 0x08#8
  | .refusedNotHeld => some 0x09#8
  | .done => some 0x0A#8

/-- Reason and outcome codes (Table 9.5-4). -/
def Reason.code : Reason → Option Byte
  | .outcome o => o.code
  | .lagged .gap => some 0x20#8
  | .lagged .selfEvicted => some 0x21#8
  | .lagged .staleSelf => some 0x22#8
  | .lagged .rollUnreadable => some 0x23#8
  | .copy .timeout => some 0x30#8
  | .copy .logFull => some 0x31#8
  | .copy .logGap => some 0x32#8
  | .copy .partMissed => some 0x33#8
  | .lag => some 0x40#8
  | .abandoned => some 0x42#8
  | .pinReset => some 0x50#8
  | .softReset => some 0x51#8
  | .frame k => some (0x6#4 ++ k.code)

/-- The notice record (Table 9.5-2): an absent byte field reads FFh and an absent turn FFFFh (R200). -/
def Notice.bytes (n : Notice) : List Byte :=
  [n.kind.code, n.tag.getD 0xFF#8, (n.request.map fun k => (0#4 ++ k.code : Byte)).getD 0xFF#8,
    (n.zone.map zoneByte).getD 0xFF#8, (n.station.map stationByte).getD 0xFF#8] ++
  wordBytes (n.turn.getD 0xFFFF#16) ++ [(n.reason.bind Reason.code).getD 0xFF#8]

/-- The status code of a ticket (Table 9.1-1). -/
def Ticket.code : Ticket → Byte
  | .none => 0
  | .waiting _ _ => 1
  | .holding _ _ => 2

/-- The last three bytes of a READ-ZONE reply: the ticket's status, tag and mode (Table 9.5-5). -/
def Ticket.bytes (t : Ticket) : List Byte :=
  match t with
  | .none => [t.code, 0xFF#8, 0xFF#8]
  | .waiting tag mode => [t.code, tag, mode.byte]
  | .holding tag mode => [t.code, tag, mode.byte]

/-- The 24 reply data bytes of READ-ZONE for a zone record and its ticket (Table 9.5-5). -/
def zoneReply (z : Zone) (r : ZoneRec) (t : Ticket) : List Byte :=
  zoneByte z :: (0#6 ++ r.state.code : Byte) :: (wordBytes r.holders ++
    (BitVec.ofNat 8 r.queue.length :: (r.queue.map Waiting.byte ++ List.replicate (16 - r.queue.length) 0xFF#8)) ++
    t.bytes)

end Machine

end Sys2Proof
end

