-- ==== Sys2Proof/Machine/Flags.lean ====
section
/-! DEFINITION. What is computed from the state: the levels of the output pins, and the conditions that several rules
read. -/

namespace Sys2Proof.Machine

/-- The own station number (R140). -/
def State.self (s : State) : Station := s.hp.station

/-- ATTN is asserted, LOW: while the notice queue holds a notice or the overflow flag is set, and RESETN is HIGH
(R139, R141). -/
def State.attn (s : State) : Bool := !s.pins.resetLow && (!s.hp.notices.isEmpty || s.hp.overflow)

/-- LTX is LOW, driving the line dominant: while the Line Interface drives a symbol (R144). -/
def State.ltxLow (s : State) : Bool := s.lif.drive.isSome

/-- The level on SDO for the next rising edge of SCK, none for high impedance (R123, R141): 0 until the reply, then the
reply's bits, then 0. -/
def State.sdo (s : State) : Option Bool :=
  if s.pins.resetLow || !s.pins.csnLow then none
  else
    match s.hp.txn with
    | none => some Config.sdoWhileDisregarded
    | some t =>
      match t.taken with
      | none => some false
      | some k => some ((bitsOf k.reply)[k.shifted]?.getD false)

/-- The states in step: JOINING, MEMBER and LEAVING (R51). -/
def StationState.inStep : StationState → Bool
  | .joining => true
  | .member => true
  | .leaving => true
  | _ => false

/-- The states whose station asserts in the roll of an order frame it applied (R38). -/
def StationState.confirms : StationState → Bool
  | .member => true
  | .leaving => true
  | _ => false

/-- The closure record is present and pending (R31). -/
def State.closurePending (s : State) : Bool :=
  match s.tc.closure with
  | some c => !c.closed
  | none => false

/-- The record of zone `z`. -/
def Ztu.zone (t : Ztu) (z : Zone) : ZoneRec := t.zones[z]

/-- The ticket of zone `z`. -/
def Ru.ticket (r : Ru) (z : Zone) : Ticket := r.tickets[z]

/-- The ticket is WAITING. -/
def Ticket.isWaiting : Ticket → Bool
  | .waiting _ _ => true
  | _ => false

/-- At least one of the own station's tickets is WAITING (R49, R118). -/
def Ru.anyWaiting (r : Ru) : Bool := (List.finRange 64).any fun z => (r.ticket z).isWaiting

/-- The condition under which the wait-probe timer runs (R49). -/
def State.waitCond (s : State) : Bool := s.tc.state == .member && s.hp.waitLimit != 0 && s.ru.anyWaiting

/-- The number of quanta at which the wait-probe timer runs out (R49). -/
def State.waitQuanta (s : State) : Nat := s.hp.waitLimit.toNat * 4096

/-- A LEAVE is queued (R99). -/
def Ru.leaveQueued (r : Ru) : Bool := r.queue.any fun q => q.op == .leave

/-- The newest queued request that names the zone (R101). -/
def Ru.newestNaming (r : Ru) (z : Zone) : Option Request := r.queue.reverse.find? fun q => q.op.zone == some z

/-- A CLAIM of the zone is refused with BUSY-ZONE (R101). -/
def Ru.busy (r : Ru) (z : Zone) : Bool :=
  match r.newestNaming z with
  | some q => q.op.kind == .claim
  | none => r.ticket z != .none

/-- A request of the queue is on the line (R98). -/
def Ru.requestOnLine (r : Ru) : Bool := r.queue.any fun q => q.onLine

/-- The Request Unit offers an order frame (R105): in MEMBER, with a request queued or the touch flag set, nothing of
its own on the line, and no closure pending for an order frame of the station's own. -/
def State.ruOffers (s : State) : Bool :=
  s.tc.state == .member && (!s.ru.queue.isEmpty || s.ru.touchFlag) && !s.ru.requestOnLine && !s.ru.touchOnLine &&
    !(match s.tc.closure with
      | some c => c.own && !c.closed
      | none => false)

/-- The station may start a frame other than its own REPEAT: no closure pending and the yield hold clear (R168). -/
def State.mayStart (s : State) : Bool := !s.closurePending && !s.fe.hold

/-- The source that the selector takes at a start opportunity, in class order (R168, R169): none when no frame may
start. An OPEN is accepted in IDLE alone, and not while LTX is still driven (R144, R147). -/
def State.selected (s : State) : Option Source :=
  if s.lif.line ≠ .idle || s.fe.tx.isSome || s.lif.drive.isSome then none
  else if (s.tc.state == .member || s.tc.state == .leaving) && s.fe.rept.isSome then some .rept
  else if !s.mayStart then none
  else
    match s.tc.state with
    | .founding => if s.fe.join.isSome then some .join else none
    | .joining => if s.fe.join.isSome then some .join else none
    | .hailing => if s.fe.hail.isSome then some .hail else none
    | .member =>
      if s.ruOffers then (if s.ru.touchFlag then some .touch else some .request)
      else if s.fe.copy.isSome then some .copy
      else none
    | _ => none

end Sys2Proof.Machine
end

