-- ==== Sys2Proof/Machine/Ops.lean ====
section
/-! DEFINITION. The shared operations on the state that more than one block uses: updates of one block, posting of
notices, pending frames of the selector, entry to HAILING, the discard of the table. -/

namespace Sys2Proof.Machine

/-! ### Updates of one block -/

/-- The Line Interface changed. -/
def State.onLif (f : Lif → Lif) (s : State) : State := { s with lif := f s.lif }
/-- The Frame Engine changed. -/
def State.onFe (f : Fe → Fe) (s : State) : State := { s with fe := f s.fe }
/-- The Turn Controller changed. -/
def State.onTc (f : Tc → Tc) (s : State) : State := { s with tc := f s.tc }
/-- The Zone Table Unit changed. -/
def State.onZtu (f : Ztu → Ztu) (s : State) : State := { s with ztu := f s.ztu }
/-- The Copy Unit changed. -/
def State.onCu (f : Cu → Cu) (s : State) : State := { s with cu := f s.cu }
/-- The Request Unit changed. -/
def State.onRu (f : Ru → Ru) (s : State) : State := { s with ru := f s.ru }
/-- The Host Port changed. -/
def State.onHp (f : Hp → Hp) (s : State) : State := { s with hp := f s.hp }
/-- The pins changed. -/
def State.onPins (f : Pins → Pins) (s : State) : State := { s with pins := f s.pins }

/-! ### The notice queue (R135 to R138) -/

/-- The number of notices the queue holds (R135). -/
def noticeCapacity : Nat := 32

/-- The discards since the take counted in the transaction under way, for the end of a STATUS reply (R129). -/
def Txn.countDiscard (t : Txn) : Txn := { t with taken := t.taken.map fun k => { k with discards := k.discards + 1 } }

/-- A notice reaches the Host Port: it joins the tail when there is room, and otherwise it is discarded, the overflow
flag is set and the overflow count advances, stopping at 255 (R136, R138). -/
def Hp.post (n : Notice) (h : Hp) : Hp :=
  if h.notices.length < noticeCapacity then { h with notices := h.notices ++ [n] }
  else { h with overflow := true, overflowCount := min 255 (h.overflowCount + 1), txn := h.txn.map Txn.countDiscard }

/-- A block posts a notice (R136). -/
def State.post (n : Notice) (s : State) : State := s.onHp (Hp.post n)

/-- Notices posted in order (R136). -/
def State.postAll (ns : List Notice) (s : State) : State := ns.foldl (fun s n => s.post n) s

/-- Two lists of notices merged, each keeping its own order. Which list goes next is a free choice while both have
notices left; `n` is the number of choices used before, and the second result the number used after. The first argument
bounds the recursion by the total length. -/
def mergeNotices : Nat → Nat → List Notice → List Notice → List Notice × Nat
  | 0, n, xs, ys => (xs ++ ys, n)
  | _, n, [], ys => (ys, n)
  | _, n, xs, [] => (xs, n)
  | fuel + 1, n, x :: xs, y :: ys =>
    if Config.freeChoice n then
      let r := mergeNotices fuel (n + 1) xs (y :: ys)
      (x :: r.1, r.2)
    else
      let r := mergeNotices fuel (n + 1) (x :: xs) ys
      (y :: r.1, r.2)

/-- Two sets of notices that a rule lets join in either order, each keeping its own (R44, R72, R136). -/
def State.postEither (xs ys : List Notice) (s : State) : State :=
  let r := mergeNotices (xs.length + ys.length) s.freeUsed xs ys
  ({ s with freeUsed := r.2 } : State).postAll r.1

/-! ### Pending frames of the selector (R169, R175) -/

/-- The pending frame of a source is removed from the selector with its try count. -/
def Fe.dropPending (src : Source) (f : Fe) : Fe :=
  match src with
  | .rept => { f with rept := none }
  | .join => { f with join := none }
  | .hail => { f with hail := none }
  | .copy => { f with copy := none }
  | .request => f
  | .touch => f

/-- A source withdraws its frame (R175): the pending frame leaves the selector, and an attempt of it on the line runs to
its end unreported. -/
def Fe.withdraw (src : Source) (f : Fe) : Fe :=
  { f.dropPending src with
    tx := f.tx.map fun a => if a.source = src then { a with withdrawn := true } else a }

/-- The roll of the frame that has just closed goes to `use`, and the own slot is asserted or not (R176, R177). -/
def State.armRoll (use : RollUse) (slot : Bool) (s : State) : State :=
  s.onFe fun f => { f with rollUse := use, slotRequest := slot }

/-! ### Station state and table -/

/-- The station state becomes `st` (R51). -/
def State.setState (st : StationState) (s : State) : State := s.onTc fun t => { t with state := st }

/-- The DISCARD of the table with the records of the Turn Controller that go with it (R26, R51): every zone FREE, turn
0, empty roster, no last-applied record, no closure record. -/
def State.discardTable (s : State) : State :=
  (s.onZtu fun _ => Ztu.reset).onTc fun t => { t with turn := 0, roster := 0, lastApplied := none, closure := none }

/-- The pending log emptied and logging turned off (R85). -/
def Cu.stopLog (c : Cu) : Cu := { c with log := [], logging := false }

/-- Entry to HAILING, or a new HAIL within it: a HAIL is pending with no tries counted, no JOIN is pending, and the log
is cleared until the HAIL's CLOSE (R52, R53, R56). -/
def State.enterHailing (s : State) : State :=
  ((s.setState .hailing).onFe fun f => { f.withdraw .join with hail := some 0 }).onCu Cu.stopLog

/-- Entry to FOUNDING (R57): the log stops and a JOIN is pending with no tries counted. -/
def State.enterFounding (s : State) : State :=
  ((s.setState .founding).onFe fun f => { f with join := some 0 }).onCu Cu.stopLog

/-- The station returns from FOUNDING to HAILING on a frame of another station (R58). -/
def State.foundingAbort (s : State) : State := if s.tc.state = .founding then s.enterHailing else s

/-! ### The wait-probe timer (R49) -/

/-- The timer follows a change of its condition: it stops when the condition does not hold, and starts from zero when
the condition has just become true. -/
def State.syncWait (before : Bool) (s : State) : State :=
  s.onTc fun t => { t with waitTimer := if s.waitCond then (if before then t.waitTimer else some 0) else none }

/-- The timer restarted from zero, when its condition holds (R45, R121). -/
def State.restartWait (s : State) : State :=
  s.onTc fun t => { t with waitTimer := if s.waitCond then some 0 else none }

end Sys2Proof.Machine
end

