-- ==== Sys2Proof/Machine/ZoneTable.lean ====
section
/-! DEFINITION. The Zone Table Unit (Section 1): the advance, the edits of the five order kinds, the removal procedure
and the check of an image for install. Everything here is a function of the table, the pool and the roster. -/

namespace Sys2Proof.Machine

/-- The record of zone `z` replaced. -/
def Ztu.setZone (t : Ztu) (z : Zone) (r : ZoneRec) : Ztu := { t with zones := t.zones.set z r }

/-- The free count raised by `n` (R4). -/
def Ztu.giveBack (t : Ztu) (n : Nat) : Ztu := { t with free := t.free + n }

/-- The station has an entry in the zone's waiting queue. -/
def ZoneRec.waits (r : ZoneRec) (k : Station) : Bool := r.queue.any fun w => w.station == k

/-! ### The advance (R6, R7) -/

/-- Table 1.3-1: a head entry of this mode is compatible with this state. -/
def compatible (st : ZoneState) (m : Mode) : Bool :=
  match st, m with
  | .free, _ => true
  | .shared, .shared => true
  | _, _ => false

/-- Steps 2 and 3 of the advance: the record left, and the entries granted in order. -/
def advanceQueue (st : ZoneState) (holders : StationSet) : List Waiting → ZoneRec × List Waiting
  | [] => ({ state := st, holders := holders, queue := [] }, [])
  | w :: rest =>
    if compatible st w.mode then
      let r := advanceQueue w.mode.zoneState (StationSet.add holders w.station) rest
      (r.1, w :: r.2)
    else ({ state := st, holders := holders, queue := w :: rest }, [])

/-- The advance of one record (R6). -/
def ZoneRec.advance (r : ZoneRec) : ZoneRec × List Waiting :=
  advanceQueue (if r.holders = 0 then .free else r.state) r.holders r.queue

/-- A grant: the zone, and the entry granted (R6). -/
structure Grant where
  zone : Zone
  entry : Waiting
  deriving DecidableEq, Repr

/-- The advance of zone `z`: its record, the pool, and the grants made (R6). -/
def Ztu.advance (t : Ztu) (z : Zone) : Ztu × List Grant :=
  let r := (t.zone z).advance
  ((t.setZone z r.1).giveBack r.2.length, r.2.map fun w => { zone := z, entry := w })

/-- The advance of each zone of a list in turn (R21). -/
def Ztu.advanceEach (t : Ztu) : List Zone → Ztu × List Grant
  | [] => (t, [])
  | z :: zs =>
    let a := t.advance z
    let r := a.1.advanceEach zs
    (r.1, a.2 ++ r.2)

/-! ### The removal procedure (R19 to R22) -/

/-- The first phase on one record: the entries of stations of `e` leave its queue (R19). -/
def ZoneRec.dropWaiting (e : StationSet) (r : ZoneRec) : ZoneRec :=
  { r with queue := r.queue.filter fun w => !StationSet.has e w.station }

/-- The number of entries of stations of `e` in a record's queue. -/
def ZoneRec.waitingIn (e : StationSet) (r : ZoneRec) : Nat := (r.queue.filter fun w => StationSet.has e w.station).length

/-- The second phase on one record: the stations of `e` leave its holder set (R20). -/
def ZoneRec.dropHolders (e : StationSet) (r : ZoneRec) : ZoneRec := { r with holders := StationSet.minus r.holders e }

/-- The first phase: every zone's queue, and the entries back to the pool (R19). -/
def Ztu.removeWaiting (t : Ztu) (e : StationSet) : Ztu :=
  { zones := Vector.ofFn fun z => (t.zone z).dropWaiting e
    free := t.free + ((List.finRange 64).map fun z => (t.zone z).waitingIn e).sum }

/-- The second phase: every zone's holder set (R20). -/
def Ztu.removeHolders (t : Ztu) (e : StationSet) : Ztu :=
  { t with zones := Vector.ofFn fun z => (t.zone z).dropHolders e }

/-- What an edit leaves and reports (R8, R9). `removals` are the own station's, in the order of R22; `left` is the set
of stations that left the roster. -/
structure EditResult where
  ztu : Ztu
  roster : StationSet
  outcome : EditOutcome
  foreign : Bool
  grants : List Grant
  removals : List Zone
  left : StationSet
  deriving DecidableEq, Repr

/-- The own station's removals, when it is in `e`: the zones where it waits, then those it holds, each ascending (R22). -/
def Ztu.removalsOf (t : Ztu) (e : StationSet) (own : Station) : List Zone :=
  if StationSet.has e own then
    (List.finRange 64).filter (fun z => (t.zone z).waits own) ++
      (List.finRange 64).filter fun z => StationSet.has (t.zone z).holders own
  else []

/-- The removal procedure for the set `e`, in its three phases (R19, R20, R21). -/
def Ztu.remove (t : Ztu) (roster e : StationSet) (own : Station) : EditResult :=
  let a := ((t.removeWaiting e).removeHolders e).advanceEach (List.finRange 64)
  { ztu := a.1, roster := StationSet.minus roster e, outcome := .done, foreign := false, grants := a.2,
    removals := t.removalsOf e own, left := roster &&& e }

/-! ### The edits (R11 to R18, R23, R24) -/

/-- An edit that leaves the table and the roster as they are. -/
def Ztu.unchanged (t : Ztu) (roster : StationSet) (o : EditOutcome) : EditResult :=
  { ztu := t, roster := roster, outcome := o, foreign := false, grants := [], removals := [], left := 0 }

/-- A record written to a zone, after which the zone's advance runs (R7). -/
def Ztu.editZone (t : Ztu) (roster : StationSet) (z : Zone) (r : ZoneRec) (o : EditOutcome) : EditResult :=
  let a := (t.setZone z r).advance z
  { ztu := a.1, roster := roster, outcome := o, foreign := false, grants := a.2, removals := [], left := 0 }

/-- A CLAIM is granted directly (R13). -/
def ZoneRec.grantsAtOnce (r : ZoneRec) (m : Mode) : Bool :=
  r.state == .free || (r.state == .shared && r.queue.isEmpty && m == .shared)

/-- The CLAIM edit (R11 to R14). -/
def Ztu.claim (t : Ztu) (roster : StationSet) (k : Station) (z : Zone) (m : Mode) : EditResult :=
  let r := t.zone z
  if !StationSet.has roster k then t.unchanged roster .refusedNotMember
  else if StationSet.has r.holders k then t.unchanged roster .refusedHeld
  else if r.waits k then t.unchanged roster .refusedWaiting
  else if r.grantsAtOnce m then
    t.editZone roster z { r with state := m.zoneState, holders := StationSet.add r.holders k } .granted
  else if t.free = 0 then t.unchanged roster .refusedPool
  else
    ({ t with free := t.free - 1 } : Ztu).editZone roster z
      { r with queue := r.queue ++ [{ station := k, mode := m }] } .queued

/-- The RELEASE edit (R15 to R17). -/
def Ztu.release (t : Ztu) (roster : StationSet) (k : Station) (z : Zone) : EditResult :=
  let r := t.zone z
  if StationSet.has r.holders k then
    t.editZone roster z { r with holders := StationSet.del r.holders k } .released
  else if r.waits k then
    (t.giveBack (r.waitingIn (StationSet.one k))).editZone roster z (r.dropWaiting (StationSet.one k)) .withdrawn
  else t.unchanged roster .refusedNotHeld

/-- The JOIN edit (R24): the readmission part when the originator is in the roster, then its addition. -/
def Ztu.join (t : Ztu) (roster : StationSet) (k own : Station) : EditResult :=
  let r := if StationSet.has roster k then t.remove roster (StationSet.one k) own else t.unchanged roster .done
  { r with roster := StationSet.add r.roster k }

/-- The edit of an order frame with originator `k` (R8). The foreign flag is set for every kind but JOIN when the
originator is not in the roster (R9). -/
def Ztu.apply (t : Ztu) (roster : StationSet) (k own : Station) (op : OrderOp) : EditResult :=
  match op with
  | .claim z m => { t.claim roster k z m with foreign := !StationSet.has roster k }
  | .release z => { t.release roster k z with foreign := !StationSet.has roster k }
  | .touch => { t.unchanged roster .done with foreign := !StationSet.has roster k }
  | .leave => { t.remove roster (StationSet.one k) own with foreign := !StationSet.has roster k }
  | .join => t.join roster k own

/-- The zones that an edit granted to the own station, in the order granted (R9). -/
def EditResult.ownGrants (e : EditResult) (own : Station) : List Zone :=
  (e.grants.filter fun g => g.entry.station == own).map fun g => g.zone

/-! ### The laws of a record, and the install (R1, R2, R27) -/

/-- No station has more than one entry in the queue, and no holder waits (R1). -/
def ZoneRec.disjoint (r : ZoneRec) : Bool :=
  decide (r.queue.map (fun w => w.station)).Nodup && r.queue.all fun w => !StationSet.has r.holders w.station

/-- The law of R2. -/
def ZoneRec.settled (r : ZoneRec) : Bool :=
  match r.state with
  | .free => r.holders == 0 && r.queue.isEmpty
  | .exclusive => (StationSet.members r.holders).length == 1
  | .shared => r.holders != 0 && (match r.queue with
      | [] => true
      | w :: _ => w.mode == .exclusive)

/-- The laws of R1 and R2. -/
def ZoneRec.lawful (r : ZoneRec) : Bool := r.disjoint && r.settled

/-- Every holder and waiting station is in the roster (R11). -/
def ZoneRec.inRoster (roster : StationSet) (r : ZoneRec) : Bool :=
  StationSet.within r.holders roster && r.queue.all fun w => StationSet.has roster w.station

/-- The zone record that a copy record describes, unless its state code is FREE or unassigned (R27 check 3, R190). -/
def CopyRec.record (c : CopyRec) : Option ZoneRec :=
  if c.code = 1 then some { state := .exclusive, holders := c.holders, queue := c.queue }
  else if c.code = 2 then some { state := .shared, holders := c.holders, queue := c.queue }
  else none

/-- The zone numbers are strictly ascending (R27 check 1). -/
def ascending : List CopyRec → Bool
  | a :: b :: rest => a.zone.toNat < b.zone.toNat && ascending (b :: rest)
  | _ => true

/-- One copy record passes checks 1, 3, 4 and 5 of R27. -/
def CopyRec.admitted (roster : StationSet) (c : CopyRec) : Bool :=
  (zoneOf c.zone).isSome &&
    match c.record with
    | some r => r.lawful && r.inRoster roster
    | none => false

/-- The total number of waiting entries of an image (R27 check 6). -/
def imageWaiting (recs : List CopyRec) : Nat := (recs.map fun c => c.queue.length).sum

/-- The image passes the six checks of R27. -/
def imageAccepted (roster : StationSet) (occupied : Nat) (recs : List CopyRec) : Bool :=
  ascending recs && recs.length == occupied && recs.all (CopyRec.admitted roster) && imageWaiting recs ≤ 96

/-- An image's records written over a table, in order. -/
def Ztu.putRecs (t : Ztu) : List CopyRec → Ztu
  | [] => t
  | c :: cs =>
    match zoneOf c.zone, c.record with
    | some z, some r => (t.setZone z r).putRecs cs
    | _, _ => t.putRecs cs

/-- The table that an accepted image makes: every zone it does not name is FREE, and the pool holds 96 less the image's
waiting entries (R27). -/
def Ztu.ofImage (recs : List CopyRec) : Ztu := { (Ztu.reset.putRecs recs) with free := 96 - imageWaiting recs }

/-- The copy records of the zones that are not FREE, in ascending zone order (R77, R78). -/
def Ztu.occupied (t : Ztu) : List CopyRec :=
  ((List.finRange 64).filter fun z => (t.zone z).state != .free).map fun z => copyRecOf z (t.zone z)

end Sys2Proof.Machine
end

