-- ==== Sys2Proof/Machine/CopySource.lean ====
section
/-! DEFINITION. The source side of the Copy Unit (R75 to R83): the waiting set, the stream and its rolls. -/

namespace Sys2Proof.Machine

/-- A stream begins when the phase is IDLE, the station is in MEMBER and the waiting set is not empty (R76). -/
def State.startStream (s : State) : State :=
  if s.cu.phase = .idle ∧ s.tc.state = .member ∧ s.cu.waiting ≠ 0 then
    (s.onCu fun c => { c with streamNo := c.streamNo + 1, phase := .head, repNo := 0 }).onFe fun f =>
      { f with copy := some 0 }
  else s

/-- The stream's record and image after an abandonment; the stream number and the waiting set are kept (R82). -/
def Cu.abandon (c : Cu) : Cu :=
  { c with phase := .idle, streamSet := 0, partIndex := 0, partCount := 0, repNo := 0, image := none }

/-- The stream is abandoned and its pending copy frame withdrawn (R82). -/
def State.abandonStream (s : State) : State := (s.onCu Cu.abandon).onFe (Fe.withdraw .copy)

/-- The source side at a lag event and on entry to LEAVING: the stream abandoned, the waiting set emptied (R65, R69). -/
def State.closeSource (s : State) : State := s.abandonStream.onCu fun c => { c with waiting := 0 }

/-- The whole Copy Unit at a lag event (Table 4.1-1): the source side closed and the requester side as after reset. -/
def Cu.clearRequester (c : Cu) : Cu :=
  { c.stopLog with awaited := none, stream := none, build := none, copyTimer := none }

/-- A member chosen as source takes the hailer into its waiting set (R75), out of the stream set, and a stream left
without stations by this is abandoned; then a stream may begin (R76). -/
def State.takeHailer (h : Station) (s : State) : State :=
  let emptied := StationSet.has s.cu.streamSet h && (StationSet.del s.cu.streamSet h == 0)
  let s1 := s.onCu fun c => { c with waiting := StationSet.add c.waiting h, streamSet := StationSet.del c.streamSet h }
  (if emptied then s1.abandonStream else s1).startStream

/-- The roll of another station's HAIL at a MEMBER: the source is the lowest-numbered station in a readable roll other
than the hailer (R55, R75). -/
def State.selectSource (h : Station) (roll : Roll) (s : State) : State :=
  match roll with
  | .unreadable => s
  | .readable set =>
    if s.tc.state = .member ∧ StationSet.lowest (StationSet.del set h) = some s.self then s.takeHailer h else s

/-- The next repeat number, stopping at 3. -/
def nextRep (r : Fin 4) : Fin 4 := if r = 3 then 3 else r + 1

/-- The stream set after the roll of repeat number 3: the stations it lacks are dropped; an unreadable roll lacks every
station (R80). -/
def Roll.keep (roll : Roll) (set : StationSet) : StationSet :=
  match roll with
  | .unreadable => 0
  | .readable r => set &&& r

/-- The roll holds every station of the set (R41, R79). -/
def Roll.covers (roll : Roll) (set : StationSet) : Bool :=
  match roll with
  | .unreadable => false
  | .readable r => StationSet.within set r

/-- A complete stream: the image is discarded, the stream set emptied, and the next stream may begin (R79). -/
def State.completeStream (s : State) : State :=
  (s.onCu fun c => { c with phase := .idle, streamSet := 0, image := none }).startStream

/-- COPY-PART `i` pending with repeat number 0 (R79). -/
def State.nextPart (i : Nat) (s : State) : State :=
  (s.onCu fun c => { c with phase := .parts, partIndex := i, repNo := 0 }).onFe fun f => { f with copy := some 0 }

/-- The copy frame is done, and the source moves on by the table of R79. -/
def State.copyFrameDone (s : State) : State :=
  if s.cu.streamSet = 0 then s.abandonStream.startStream
  else
    match s.cu.phase with
    | .idle => s
    | .head => if s.cu.partCount = 0 then s.completeStream else s.nextPart 0
    | .parts => if s.cu.partIndex + 1 < s.cu.partCount then s.nextPart (s.cu.partIndex + 1) else s.completeStream

/-- The source reads the roll of its own copy frame (R79, R80). With the source side IDLE it is not read (R175). -/
def State.copyRoll (roll : Roll) (s : State) : State :=
  if s.cu.phase = .idle then s
  else if roll.covers s.cu.streamSet then s.copyFrameDone
  else if s.cu.repNo = 3 then (s.onCu fun c => { c with streamSet := roll.keep c.streamSet }).copyFrameDone
  else (s.onCu fun c => { c with repNo := nextRep c.repNo }).onFe fun f => { f with copy := some 0 }

/-- The snapshot of R77: T, the roster and every occupied zone record; the waiting set moves into the stream set; the
part count and the body of the COPY-HEAD follow (R78, R184). -/
def State.snapshot (s : State) : State :=
  let recs := s.ztu.occupied
  let set := s.cu.streamSet ||| s.cu.waiting
  let parts := (packParts recs).length
  let head : HeadBody := { number := s.cu.streamNo, snapTurn := s.tc.turn, roster := s.tc.roster, requesters := set,
                           partCount := parts, occupied := recs.length }
  s.onCu fun c =>
    { c with image := some { turn := s.tc.turn, recs := recs, headBody := head.bytes }, streamSet := set, waiting := 0,
             partCount := parts }

/-- The copy frame that the source builds from its image (R170, R185). Without an image there is none. -/
def State.copyFrame (s : State) : Option Frame :=
  s.cu.image.map fun img =>
    { payload := match s.cu.phase with
        | .parts => .copyPart (partBody s.cu.streamNo s.cu.partIndex ((packParts img.recs)[s.cu.partIndex]?.getD []))
        | _ => .copyHead img.headBody
      repNo := s.cu.repNo, orig := s.self, turn := img.turn }

end Sys2Proof.Machine
end

