-- ==== Sys2Proof/Machine/RequestUnit.lean ====
section
/-! DEFINITION. The Request Unit (Section 5): SUBMIT and WITHDRAW, the ticket changes of an edit report, the ends of
attempts, and the cancellation of requests and tickets. Operations on `Ru` return the notices they call for, in order. -/

namespace Sys2Proof.Machine

/-- The number of requests the queue holds (R98). -/
def requestCapacity : Nat := 8

/-- The number of tries at which a frame is given up (R108, R121, R174). -/
def maxTries : Nat := 8

/-- The ticket of zone `z` replaced. -/
def Ru.setTicket (r : Ru) (z : Zone) (t : Ticket) : Ru := { r with tickets := r.tickets.set z t }

/-- The touch flag cleared, with the tries of the internal TOUCH it called for (R115, R119, R120). -/
def Ru.clearTouch (r : Ru) : Ru := { r with touchFlag := false, touchTries := 0 }

/-! ### SUBMIT and WITHDRAW (R99 to R104) -/

/-- The states in which SUBMIT is accepted (R99). -/
def StationState.acceptsSubmit : StationState → Bool
  | .offline => false
  | .leaving => false
  | _ => true

/-- The request operation of a SUBMIT with valid kind and mode, when its zone operand is valid or not examined (R100
check 4, R195). -/
def SubmitKind.request (k : SubmitKind) (zone : Byte) : Option ReqOp :=
  match k with
  | .claim m => (zoneOf zone).map fun z => .claim z m
  | .release => (zoneOf zone).map .release
  | .touch => some .touch
  | .leave => some .leave

/-- Check 7 of R100: a CLAIM of a busy zone. -/
def Ru.refusesBusy (r : Ru) (op : ReqOp) : Bool :=
  match op with
  | .claim z _ => r.busy z
  | _ => false

/-- Checks 5 to 7 of R100, and the append of R102. -/
def Ru.enqueue (r : Ru) (tag : Byte) (op : ReqOp) : Ru × ReplyCode :=
  if r.queue.any fun q => q.tag == tag then (r, .tag)
  else if requestCapacity ≤ r.queue.length then (r, .full)
  else if r.refusesBusy op then (r, .busyZone)
  else ({ r with queue := r.queue ++ [{ tag := tag, op := op, tries := 0, onLine := false }] }, .ok)

/-- SUBMIT, with its checks in the order of Table 5.2-1 (R100, R102). -/
def Ru.submit (r : Ru) (st : StationState) (kind tag zone mode : Byte) : Ru × ReplyCode :=
  if !st.acceptsSubmit || r.leaveQueued then (r, .state)
  else
    match submitKindOf kind mode with
    | none => (r, .badOperand)
    | some k =>
      if k == .leave && st != .member then (r, .state)
      else
        match k.request zone with
        | none => (r, .zone)
        | some op => r.enqueue tag op

/-- WITHDRAW (R103). -/
def Ru.withdraw (r : Ru) (tag : Byte) : Ru × ReplyCode :=
  match r.queue.find? fun q => q.tag == tag with
  | none => (r, .unknownTag)
  | some q => if q.onLine then (r, .inFlight) else ({ r with queue := r.queue.eraseP fun q => q.tag == tag }, .ok)

/-! ### Attempts (R106 to R108, R120, R121) -/

/-- The head request goes on the line (R106). -/
def Ru.takeHead (r : Ru) : Ru :=
  match r.queue with
  | [] => r
  | q :: qs => { r with queue := { q with onLine := true } :: qs }

/-- An attempt of the Request Unit ended in an arbitration loss: nothing is on the line, no try is counted (R107). -/
def Ru.offLine (r : Ru) : Ru :=
  { r with queue := r.queue.map fun q => { q with onLine := false }, touchOnLine := false }

/-- SEND-FAILED for a request (R108). -/
def Request.sendFailed (q : Request) : Notice :=
  { kind := .sendFailed, tag := some q.tag, zone := q.op.zone, reason := some (.frame q.op.kind) }

/-- An attempt of the request on the line ended in a counted try: at the eighth the request leaves the queue with
SEND-FAILED (R107, R108). -/
def Ru.requestTry (r : Ru) : Ru × List Notice :=
  match r.queue.find? fun q => q.onLine with
  | none => (r, [])
  | some q =>
    if maxTries ≤ q.tries + 1 then ({ r with queue := r.queue.eraseP fun q => q.onLine }, [q.sendFailed])
    else
      ({ r with queue := r.queue.map fun q => if q.onLine then { q with tries := q.tries + 1, onLine := false } else q },
        [])

/-- An attempt of the internal TOUCH ended in a counted try: at the eighth it is dropped, the flag and the tries are
cleared, and SEND-FAILED (TOUCH) is posted (R121). -/
def Ru.touchTry (r : Ru) : Ru × List Notice :=
  if maxTries ≤ r.touchTries + 1 then
    ({ r.clearTouch with touchOnLine := false }, [{ kind := .sendFailed, reason := some (.frame .touch) }])
  else ({ r with touchOnLine := false, touchTries := r.touchTries + 1 }, [])

/-! ### Edit reports (R109 to R114, R117) -/

/-- The change of ticket that the outcome of an own request makes (R111, R112). -/
def Ru.settle (r : Ru) (q : Request) (o : EditOutcome) : Ru :=
  match q.op, o with
  | .claim z m, .granted => r.setTicket z (.holding q.tag m)
  | .claim z m, .queued => r.setTicket z (.waiting q.tag m)
  | .release z, .released => r.setTicket z .none
  | .release z, .withdrawn => r.setTicket z .none
  | .touch, _ => r.clearTouch
  | _, _ => r

/-- OUTCOME (R109). -/
def Request.outcome (q : Request) (o : EditOutcome) (turn : Turn) : Notice :=
  { kind := .outcome, tag := some q.tag, request := some q.op.kind, zone := q.op.zone, turn := some turn,
    reason := some (.outcome o) }

/-- Steps 1 to 3 of R109, for the request on the line; the internal TOUCH instead clears the flag without a notice
(R120). -/
def Ru.ownApplied (r : Ru) (own : Option Source) (o : EditOutcome) (turn : Turn) : Ru × List Notice :=
  match own with
  | some .request =>
    match r.queue.find? fun q => q.onLine with
    | none => (r, [])
    | some q => ({ r with queue := r.queue.eraseP fun q => q.onLine }.settle q o, [q.outcome o turn])
  | some .touch => ({ r.clearTouch with touchOnLine := false }, [])
  | _ => (r, [])

/-- GRANTED (R113). -/
def grantedNotice (tag : Byte) (z : Zone) (turn : Turn) : Notice :=
  { kind := .granted, tag := some tag, zone := some z, turn := some turn }

/-- LOST (R114, R115). -/
def lostNotice (tag : Byte) (z : Zone) (turn : Turn) (why : Reason) : Notice :=
  { kind := .lost, tag := some tag, zone := some z, turn := some turn, reason := some why }

/-- The grants of an edit report in order: each moves a WAITING ticket to HOLDING with a GRANTED notice (R113). The
last result says that some grant found a ticket that is not WAITING, a duplicate mark (R117). -/
def Ru.grantEach (turn : Turn) : List Zone → Ru → Ru × List Notice × Bool
  | [], r => (r, [], false)
  | z :: zs, r =>
    match r.ticket z with
    | .waiting tag m =>
      let x := Ru.grantEach turn zs (r.setTicket z (.holding tag m))
      (x.1, grantedNotice tag z turn :: x.2.1, x.2.2)
    | _ =>
      let x := Ru.grantEach turn zs r
      (x.1, x.2.1, true)

/-- The tickets of the listed zones end in order, each that is not NONE with a LOST notice (R114, R115). -/
def Ru.loseEach (turn : Turn) (why : Reason) : List Zone → Ru → Ru × List Notice
  | [], r => (r, [])
  | z :: zs, r =>
    match r.ticket z with
    | .none => Ru.loseEach turn why zs r
    | .waiting tag _ =>
      let x := Ru.loseEach turn why zs (r.setTicket z .none)
      (x.1, lostNotice tag z turn why :: x.2)
    | .holding tag _ =>
      let x := Ru.loseEach turn why zs (r.setTicket z .none)
      (x.1, lostNotice tag z turn why :: x.2)

/-- What an edit was of, as its report says: for an APPLY the originator, the operation and, when the frame is the
station's own transmission, its source; for a REMOVE nothing (R9). -/
structure EditCause where
  orig : Option Station
  op : Option OrderOp
  own : Option Source
  deriving DecidableEq, Repr

/-- The report is of the station's own LEAVE (R114). -/
def EditCause.ownLeave (c : EditCause) : Bool := c.op == some .leave && c.own.isSome

/-- The report is an apply report whose originator is the own station number for a frame that is not the station's own
transmission, the first mark of R117. -/
def EditCause.impostor (c : EditCause) (self : Station) : Bool := c.orig == some self && c.own.isNone

/-- The Request Unit handles an edit report in MEMBER: the own request, the grants, the removals, and the marks of a
second station with the own number (R109, R113, R114, R117). Results: the unit, the notices in order, the mark. -/
def Ru.handle (self : Station) (turn : Turn) (c : EditCause) (e : EditResult) (r : Ru) : Ru × List Notice × Bool :=
  let a := r.ownApplied c.own e.outcome turn
  let g := Ru.grantEach turn (e.ownGrants self) a.1
  let l := if c.ownLeave then Ru.loseEach turn (.frame .leave) e.removals g.1 else (g.1, [])
  (l.1, a.2 ++ g.2.1 ++ l.2, c.impostor self || g.2.2 || (!c.ownLeave && !e.removals.isEmpty))

/-- The edit report reaches the Request Unit (R9): it acts in MEMBER alone (R110, R117), and the wait-probe timer follows
the tickets (R118). The notices are returned, to be posted with the Turn Controller's of the same event. -/
def State.ruReport (turn : Turn) (c : EditCause) (e : EditResult) (s : State) : State × List Notice × Bool :=
  if s.tc.state = .member then
    let x := s.ru.handle s.self turn c e
    ((s.onRu fun _ => x.1).syncWait s.waitCond, x.2.1, x.2.2)
  else (s, [], false)

/-! ### Lag event and join abandonment (R115, R116) -/

/-- CANCELLED (R115, R116). -/
def Request.cancelled (why : Reason) (q : Request) : Notice :=
  { kind := .cancelled, tag := some q.tag, request := some q.op.kind, zone := q.op.zone, reason := some why }

/-- Every ticket ends with LOST (LAG), ascending (R115 step 1). -/
def State.loseTickets (turn : Turn) (s : State) : State :=
  let x := Ru.loseEach turn .lag (List.finRange 64) s.ru
  (s.onRu fun _ => x.1).postAll x.2

/-- Every request leaves the queue, oldest first, with CANCELLED; the internal TOUCH and the flag go with them (R115
steps 2 and 3, R116). DESIGN CHOICE, log entry 12: R115 says that no frame of the Request Unit is on the line at that moment,
but an attempt that a bit fault stopped, and whose HALT LRX never showed, may still stand. The model takes the request and
the TOUCH as withdrawn then (R175), so the end of such an attempt is reported to no block and counts no try. -/
def State.cancelRequests (why : Reason) (s : State) : State :=
  ((s.onRu fun r => { r.clearTouch with queue := [], touchOnLine := false }).onFe fun f =>
    (f.withdraw .request).withdraw .touch).postAll (s.ru.queue.map (Request.cancelled why))

end Sys2Proof.Machine
end

