-- ==== Sys2Proof/Machine/TurnController.lean ====
section
/-! DEFINITION. The Turn Controller (Sections 2 and 3): the lag event, the closure and its eviction, the apply, and the
handling of order-class frames by a station in step. -/

namespace Sys2Proof.Machine

/-! ### Lag event and duplicates (R64, R65, R68, R117) -/

/-- LAGGED (R65 step 2). -/
def laggedNotice (r : LagReason) (turn : Turn) : Notice :=
  { kind := .lagged, turn := some turn, reason := some (.lagged r) }

/-- DUPLICATE-SUSPECT with the own station number (R68, R94, R117, R173). -/
def duplicateNotice (self : Station) : Notice := { kind := .duplicateSuspect, station := some self }

/-- The wait-probe timer stopped (R49). -/
def State.stopWait (s : State) : State := s.onTc fun t => { t with waitTimer := none }

/-- Step 6 of R65: HAILING with a new HAIL when auto-rejoin is set, OFFLINE when it is clear (R71). -/
def State.afterLag (s : State) : State := if s.hp.autoRejoin then s.enterHailing else s.setState .offline

/-- The lag event, its six steps in order (R65). An attempt of the Request Unit that a bit fault stopped and that still stands
is withdrawn with its request or its TOUCH (`State.cancelRequests`, DESIGN CHOICE, log entry 12). -/
def State.lagEvent (r : LagReason) (s : State) : State :=
  let turn := s.tc.turn
  let s1 := (s.stopWait.onFe fun f => (f.withdraw .rept).withdraw .join).post (laggedNotice r turn)
  let s2 := (s1.discardTable.loseTickets turn).cancelRequests .lag
  (s2.closeSource.onCu Cu.clearRequester).afterLag

/-- The duplicate treatment: DUPLICATE-SUSPECT, then a lag event with the reason SELF-EVICTED (R68, R117). -/
def State.duplicateLag (s : State) : State := (s.post (duplicateNotice s.self)).lagEvent .selfEvicted

/-! ### Closure (R41 to R48) -/

/-- PEER-JOINED, PEER-LEFT and PEER-EVICTED (R72). -/
def peerNotice (kind : NoticeKind) (k : Station) (turn : Turn) : Notice :=
  { kind := kind, station := some k, turn := some turn }

/-- The peer notices of an event, when the option is set (R72). -/
def State.peerNotices (ns : List Notice) (s : State) : List Notice := if s.hp.peerNotices then ns else []

/-- What an edit leaves in the table and the roster. -/
def State.setTable (e : EditResult) (s : State) : State :=
  (s.onZtu fun _ => e.ztu).onTc fun t => { t with roster := e.roster }

/-- The eviction of R44: the REMOVE instruction, the PEER-EVICTED and GRANTED notices, each set in its order, and the
duplicate mark of the edit report if any. -/
def State.evict (e : StationSet) (turn : Turn) (s : State) : State × Bool :=
  let r := s.ztu.remove s.tc.roster e s.self
  let x := (s.setTable r).ruReport turn { orig := none, op := none, own := none } r
  let peers := s.peerNotices ((StationSet.members r.left).map fun k => peerNotice .peerEvicted k turn)
  (x.1.postEither x.2.1 peers, x.2.2)

/-- The closure of the own LEAVE: the table, roster and turn discarded, the Copy Unit at its reset values, OFFLINE, and
LEFT posted (R45 step 3, R70). -/
def State.leaveGroup (turn : Turn) (s : State) : State :=
  ((s.discardTable.onCu fun _ => Cu.reset).setState .offline).post { kind := .left, turn := some turn }

/-- The effects of a closure that ends in no lag event (R45): the record closed, a pending REPEAT withdrawn, the own
LEAVE ended, the wait-probe timer restarted. -/
def State.closureEffects (c : ClosureRecord) (s : State) : State :=
  let s1 := (s.onTc fun t => { t with closure := some { c with closed := true } }).onFe (Fe.withdraw .rept)
  let s2 := if s1.tc.state = .leaving ∧ c.own then s1.leaveGroup c.turn else s1
  s2.restartWait

/-- How a closure ends (R43). -/
inductive ClosureEnd where
  | lag (r : LagReason)
  | evict (e : StationSet)
  deriving DecidableEq, Repr

/-- The five cases of R43, in order; an empty eviction set evicts nobody. -/
def ClosureRecord.ending (c : ClosureRecord) (self : Station) : ClosureEnd :=
  match c.lastRoll.getD .unreadable with
  | .unreadable => .lag .rollUnreadable
  | .readable roll =>
    let others := StationSet.del c.expected self
    if c.own && others != 0 && roll &&& others == 0 then .lag .staleSelf
    else if StationSet.has (StationSet.minus c.expected roll) self then .lag .selfEvicted
    else .evict (StationSet.minus c.expected roll)

/-- The closure of the frame that the record `c` describes (R43 to R45). -/
def State.closeRecord (c : ClosureRecord) (s : State) : State :=
  match c.ending s.self with
  | .lag r => s.lagEvent r
  | .evict e =>
    let x := if e = 0 then (s, false) else s.evict e c.turn
    let s1 := x.1.closureEffects c
    if x.2 then s1.duplicateLag else s1

/-- The closure is taken when the record is pending (R42, R43). -/
def State.takeClosure (s : State) : State :=
  match s.tc.closure with
  | some c => if c.closed then s else s.closeRecord c
  | none => s

/-- The REPEAT of the frame under closure, with the repeat number just read plus one (R41). -/
def ClosureRecord.repeatFrame (c : ClosureRecord) : Frame :=
  { payload := .order c.op, repNo := nextRep c.repSeen, orig := c.orig, turn := c.turn }

/-- The Turn Controller reads the roll of the frame under closure (R40): at repeat number 3 it is the final roll and
the closure follows (R43); otherwise the originator of an incomplete roll makes a REPEAT pending (R41). DESIGN CHOICE, log
entry 30: a REPEAT that is pending already when a complete roll ends the obligation stays pending and is sent. That can come
about where a station strapped with the same number had its identical REPEAT accepted first, and neither R41 nor R175 names
the point among those that withdraw a REPEAT. -/
def State.orderRoll (roll : Roll) (s : State) : State :=
  match s.tc.closure with
  | none => s
  | some c =>
    if c.closed then s
    else
      let s1 := s.onTc fun t => { t with closure := some { c with lastRoll := some roll } }
      if c.repSeen = 3 then s1.takeClosure
      else if c.own && !roll.covers c.expected then
        s1.onFe fun f => { f with rept := some { frame := c.repeatFrame, tries := 0 } }
      else s1

/-! ### Apply (R32 to R38) -/

/-- The classes of Table 2.2-1. -/
inductive OrderClass where
  | apply
  | recognised
  | gap
  | stale
  deriving DecidableEq, Repr

/-- Table 2.2-1, for a frame with this originator, turn and check. -/
def Tc.classify (t : Tc) (orig : Station) (turn : Turn) (check : Check) : OrderClass :=
  let d := (turn - t.turn).toNat
  if d = 0 then .apply
  else if d = 65535 then
    match t.lastApplied with
    | some l => if l.orig = orig ∧ l.check = check then .recognised else .stale
    | none => .stale
  else if d ≤ 32767 then .gap
  else .stale

/-- Entry to LEAVING at the apply of the own LEAVE (R69): the timer stops, the touch flag is cleared, the source side is
closed. The tickets have ended with the edit report (R114). -/
def State.enterLeaving (s : State) : State :=
  ((s.setState .leaving).stopWait.onRu Ru.clearTouch).closeSource

/-- Steps 2 to 4 of R34: T advances, the last-applied record names the frame, the closure record opens as `c`. -/
def Tc.opened (t : Tc) (c : ClosureRecord) : Tc :=
  { t with turn := t.turn + 1, lastApplied := some { orig := c.orig, turn := c.turn, check := c.check }, closure := some c }

/-- The closure record that the apply of a frame opens, pending (R34 step 4, Table 2.1-1): the expected set is the roster
after the edit, or empty for a foreign frame. -/
def Frame.record (f : Frame) (op : OrderOp) (e : EditResult) (own : Bool) : ClosureRecord :=
  { orig := f.orig, turn := f.turn, check := f.check, op := op, expected := if e.foreign then 0 else e.roster,
    lastRoll := none, repSeen := f.repNo, own := own, foreign := e.foreign, closed := false }

/-- The notices that the Turn Controller posts at step 5 of R34 (R58, R62, R72). -/
def State.membershipNotices (f : Frame) (op : OrderOp) (own foreign : Bool) (s : State) : List Notice :=
  match op with
  | .join =>
    if own then
      [{ kind := if s.tc.state = .founding then .founded else .joined, turn := some f.turn }]
    else s.peerNotices [peerNotice .peerJoined f.orig f.turn]
  | .leave => if own || foreign then [] else s.peerNotices [peerNotice .peerLeft f.orig f.turn]
  | _ => []

/-- The change of station state at step 5 of R34: the own JOIN makes a MEMBER, the own LEAVE leads to LEAVING. -/
def State.membershipChange (op : OrderOp) (own : Bool) (s : State) : State :=
  if own then
    match op with
    | .join => s.setState .member
    | .leave => s.enterLeaving
    | _ => s
  else s

/-- The apply of an order-class frame (R34). `own` is the source of the frame when it is the station's own transmission.
A duplicate mark of the edit report ends in the lag of R117, and no slot is asserted; otherwise the slot is decided by
R38. -/
def State.applyFrame (f : Frame) (op : OrderOp) (own : Option Source) (s : State) : State :=
  let e := s.ztu.apply s.tc.roster f.orig s.self op
  let s1 := (s.setTable e).onTc fun t => t.opened (f.record op e own.isSome)
  let x := s1.ruReport f.turn { orig := some f.orig, op := some op, own := own } e
  let s2 := (x.1.postEither x.2.1 (s.membershipNotices f op own.isSome e.foreign)).membershipChange op own.isSome
  if x.2.2 then s2.duplicateLag
  else s2.armRoll .order (s2.tc.state.confirms && !e.foreign)

/-- The frame names the own JOIN or LEAVE of a station that did not send it (R68). -/
def isImpostorFrame (self : Station) (f : Frame) (op : OrderOp) (own : Option Source) : Bool :=
  f.orig == self && own.isNone && (op == .join || op == .leave)

/-- A recognised repeat (R35): with the closure pending the repeat number seen rises and the slot is decided as at the
apply; with the closure taken it is a lag event. -/
def State.recogniseRepeat (f : Frame) (s : State) : State :=
  match s.tc.closure with
  | some c =>
    if c.closed then s.lagEvent .rollUnreadable
    else
      (s.onTc fun t => { t with closure := some { c with repSeen := max c.repSeen f.repNo } }).armRoll .order
        (s.tc.state.confirms && !c.foreign)
  | none => s.lagEvent .rollUnreadable

/-- A station in step acts on an order-class frame by its class (R33 to R36, R68). -/
def State.orderInStep (f : Frame) (op : OrderOp) (own : Option Source) (s : State) : State :=
  match s.tc.classify f.orig f.turn f.check with
  | .apply => if isImpostorFrame s.self f op own then s.duplicateLag else s.applyFrame f op own
  | .recognised => s.recogniseRepeat f
  | .gap => s.lagEvent .gap
  | .stale => s

/-- The frame is a repeat of the frame under closure: originator, turn and check equal (R42). -/
def ClosureRecord.isRepeat (c : ClosureRecord) (f : Frame) : Bool :=
  c.orig == f.orig && c.turn == f.turn && c.check == f.check

/-- An accepted frame that is not a repeat of the frame under closure closes it first (R42). -/
def State.closeBefore (f : Frame) (s : State) : State :=
  match s.tc.closure with
  | some c => if f.isOrder && c.isRepeat f then s else s.takeClosure
  | none => s

/-! ### Join abandonment (R67) -/

/-- The join is abandoned at the eighth try of the frame `k`, HAIL or JOIN (R67): OFFLINE, the table discarded, the log
stopped, the requests cancelled, and SEND-FAILED last. -/
def State.abandonJoin (k : FrameKind) (s : State) : State :=
  let s1 := (s.discardTable.setState .offline).onFe fun f => ((f.withdraw .hail).withdraw .join).withdraw .rept
  ((s1.onCu Cu.stopLog).cancelRequests .abandoned).post { kind := .sendFailed, reason := some (.frame k) }

end Sys2Proof.Machine
end

