-- ==== Sys2Proof/Machine/CopyRequester.lean ====
section
/-! DEFINITION. The requester side of the Copy Unit (R84 to R97): the pending log, the acceptance of heads and parts, the
install with its replay, and the copy failure; and the hailer's reading of its HAIL's roll (R53, R56). -/

namespace Sys2Proof.Machine

/-- The number of entries the pending log holds (R85). -/
def logCapacity : Nat := 24

/-! ### Failure (R97) -/

/-- COPY-RESTART with the awaited source (R97 step 1). -/
def copyRestartNotice (awaited : Option Station) (r : CopyReason) : Notice :=
  { kind := .copyRestart, station := awaited, reason := some (.copy r) }

/-- The copy failure, in the order of R97: the notice, the requester side cleared, the table discarded, and HAILING with
a new HAIL. -/
def State.copyFailure (r : CopyReason) (s : State) : State :=
  (((s.post (copyRestartNotice s.cu.awaited r)).onCu Cu.clearRequester).discardTable).enterHailing

/-! ### The own HAIL (R53, R56) -/

/-- The CLOSE of the own HAIL: the log is emptied and logging turned on (R53, R85). -/
def Cu.startLog (c : Cu) : Cu := { c with log := [], logging := true }

/-- Entry to COPYING with the awaited source `k`: the copy timer starts, there is no stream record yet (R56, R84). -/
def State.enterCopying (k : Station) (s : State) : State :=
  (s.setState .copying).onCu fun c => { c with awaited := some k, stream := none, build := none, copyTimer := some 0 }

/-- The roll of the own HAIL in HAILING (R56): FOUNDING when it holds no other station, COPYING with the lowest-numbered
other station as source, or a new HAIL when it is unreadable. -/
def State.hailAnswer (roll : Roll) (s : State) : State :=
  if s.tc.state ≠ .hailing then s
  else
    match roll with
    | .unreadable => s.enterHailing
    | .readable set =>
      match StationSet.lowest (StationSet.del set s.self) with
      | none => s.enterFounding
      | some k => s.enterCopying k

/-! ### The pending log (R85 to R87) -/

/-- The log entry of a frame (Table 4.4-1). -/
def LogEntry.ofFrame (f : Frame) (op : OrderOp) : LogEntry :=
  { turn := f.turn, orig := f.orig, op := op, check := f.check, repSeen := f.repNo, lastRoll := none, closed := false }

/-- The newest entry changed. -/
def onNewest (g : LogEntry → LogEntry) : List LogEntry → List LogEntry
  | [] => []
  | [e] => [g e]
  | e :: es => e :: onNewest g es

/-- The newest entry marked closed (R87). -/
def Cu.closeNewest (c : Cu) : Cu := { c with log := onNewest (fun e => { e with closed := true }) c.log }

/-- A frame becomes the newest entry, or the log is full (R86). -/
def State.appendLog (f : Frame) (op : OrderOp) (s : State) : State :=
  if logCapacity ≤ s.cu.log.length then s.copyFailure .logFull
  else (s.onCu fun c => { c with log := c.log ++ [LogEntry.ofFrame f op] }).armRoll (.log f.repNo) false

/-- The comparison of R86 with the expected turn: appended at it, LOG-GAP ahead of it or, when the log is not empty, one
turn behind it; disregarded otherwise. A repeat of the newest open entry has been taken out before. -/
def State.compareLog (f : Frame) (op : OrderOp) (expectedTurn : Turn) (empty : Bool) (s : State) : State :=
  let d := (f.turn - expectedTurn).toNat
  if d = 0 then s.appendLog f op
  else if d ≤ 32767 then s.copyFailure .logGap
  else if d = 65535 ∧ !empty then s.copyFailure .logGap
  else s

/-- The frame is a repeat of the log entry: turn, originator and check equal (R86). -/
def LogEntry.isRepeat (e : LogEntry) (f : Frame) : Bool := e.turn == f.turn && e.orig == f.orig && e.check == f.check

/-- An accepted order-class frame at the requester (R86), the newest entry being closed first by a frame that is not its
repeat (R87). -/
def State.logFrame (f : Frame) (op : OrderOp) (s : State) : State :=
  if s.tc.state ≠ .copying ∨ !s.cu.logging then s
  else
    match s.cu.log.getLast? with
    | none =>
      match s.cu.stream with
      | none => s.appendLog f op
      | some st => s.compareLog f op st.snapTurn true
    | some e =>
      if e.isRepeat f && !e.closed then
        (s.onCu fun c => { c with log := onNewest (fun e => { e with repSeen := max e.repSeen f.repNo }) c.log }).armRoll
          (.log f.repNo) false
      else (s.onCu Cu.closeNewest).compareLog f op (e.turn + 1) false

/-- The requester reads the roll of the newest entry's frame: the entry records it unless it is closed, and the roll of
an attempt with repeat number 3 closes it (R87). -/
def Cu.logRoll (repNo : Fin 4) (roll : Roll) (c : Cu) : Cu :=
  { c with log := onNewest (fun e =>
      if e.closed then e else { e with lastRoll := some roll, closed := repNo == 3 }) c.log }

/-! ### Install and replay (R93 to R96) -/

/-- The closure record that a replayed entry opens (R94 step 4). -/
def LogEntry.record (l : LogEntry) (e : EditResult) : ClosureRecord :=
  { orig := l.orig, turn := l.turn, check := l.check, op := l.op, expected := if e.foreign then 0 else e.roster,
    lastRoll := l.lastRoll, repSeen := l.repSeen, own := false, foreign := e.foreign, closed := false }

/-- The apply of a replayed entry (R94). -/
def State.replayApply (l : LogEntry) (s : State) : State :=
  let e := s.ztu.apply s.tc.roster l.orig s.self l.op
  (s.setTable e).onTc fun t => t.opened (l.record e)

/-- The closure of a replayed entry that is closed (R95); none when it fails the replay. -/
def State.replayClose (s : State) : Option State :=
  match s.tc.closure with
  | none => some s
  | some c =>
    match c.lastRoll.getD .unreadable with
    | .unreadable => none
    | .readable roll =>
      let e := StationSet.minus c.expected roll
      if StationSet.has e s.self then none
      else
        let s1 := if e = 0 then s else s.setTable (s.ztu.remove s.tc.roster e s.self)
        some (s1.onTc fun t => { t with closure := some { c with closed := true } })

/-- How an install ends: with the state it leaves, refused by the Zone Table Unit, or failed in the replay, where the
flag says that an entry bore the own station number (R93 to R95). -/
inductive InstallEnd where
  | done (s : State)
  | refused
  | failed (duplicate : Bool)

/-- The replay of the log, oldest entry first (R94, R95). -/
def State.replay : List LogEntry → State → InstallEnd
  | [], s => .done s
  | l :: ls, s =>
    if l.orig = s.self then .failed true
    else
      let s1 := s.replayApply l
      if l.closed then
        match s1.replayClose with
        | none => .failed false
        | some s2 => s2.replay ls
      else s1.replay ls

/-- The image becomes the table, and the roster and T are set from the head (R27, R93). -/
def State.putImage (st : ReqStream) (recs : List CopyRec) (s : State) : State :=
  (s.onZtu fun _ => Ztu.ofImage recs).onTc fun t =>
    { t with turn := st.snapTurn, roster := st.roster, lastApplied := none, closure := none }

/-- Entry to JOINING (R61, R96): the requester side is cleared and a JOIN is pending with no tries counted. -/
def State.enterJoining (s : State) : State :=
  ((s.onCu Cu.clearRequester).setState .joining).onFe fun f => { f with join := some 0 }

/-- The install and the replay, up to the entry to JOINING (R93 to R96). -/
def State.tryInstall (s : State) : InstallEnd :=
  match s.cu.stream, s.cu.build with
  | some st, some recs =>
    if imageAccepted st.roster st.occupied recs then (s.putImage st recs).replay s.cu.log else .refused
  | _, _ => .refused

/-- The install at the CLOSE of the final part, or of a head whose part count is 0. The frame is answered in its roll
unless the copy fails (R91). -/
def State.install (s : State) : State :=
  match s.tryInstall with
  | .done s1 => s1.enterJoining.armRoll .none true
  | .refused => s.copyFailure .partMissed
  | .failed duplicate => (if duplicate then s.post (duplicateNotice s.self) else s).copyFailure .logGap

/-! ### Heads and parts (R88 to R91) -/

/-- The copy frame is accepted or recognised: the copy timer restarts and the slot is asserted (R91, R92). -/
def State.answerCopy (s : State) : State :=
  (s.onCu fun c => { c with copyTimer := some 0 }).armRoll .none true

/-- The entry's turn lies before the snapshot turn (R88 step 3). -/
def LogEntry.before (snap : Turn) (e : LogEntry) : Bool :=
  let d := (snap - e.turn).toNat
  1 ≤ d && d ≤ 32767

/-- The Copy Unit after the acceptance of a head: its stream record, an empty image and the pruned log (R88 steps 1 to 3). -/
def Cu.takeHead (h : HeadBody) (c : Cu) : Cu :=
  { c with
    stream := some { number := h.number, snapTurn := h.snapTurn, roster := h.roster, partCount := h.partCount,
                     occupied := h.occupied, nextPart := 0 }
    build := some []
    copyTimer := some 0
    log := c.log.filter fun e => !e.before h.snapTurn }

/-- The log, pruned, starts at the snapshot turn (R88 step 4). -/
def logStartsAt (snap : Turn) (log : List LogEntry) : Bool :=
  match log with
  | [] => true
  | e :: _ => e.turn == snap

/-- The acceptance of a head (R88, R187). -/
def State.acceptHead (h : HeadBody) (s : State) : State :=
  if !h.consistent then s.copyFailure .partMissed
  else
    let s1 := s.onCu (Cu.takeHead h)
    if !logStartsAt h.snapTurn s1.cu.log then s1.copyFailure .logGap
    else if h.partCount = 0 then s1.install
    else s1.answerCopy

/-- A COPY-HEAD at a requester (R88, R89): from the awaited source and naming the own station, recognised when it carries
the recorded stream number, and accepted otherwise. -/
def State.copyHead (orig : Station) (body : List Byte) (s : State) : State :=
  match headOf body with
  | none => s
  | some h =>
    if s.cu.awaited ≠ some orig ∨ !StationSet.has h.requesters s.self then s
    else
      match s.cu.stream with
      | some st => if st.number = h.number then s.answerCopy else s.acceptHead h
      | none => s.acceptHead h

/-- The records of an accepted part appended to the image under construction (R90). -/
def Cu.takePart (st : ReqStream) (recs : List CopyRec) (c : Cu) : Cu :=
  { c with stream := some { st with nextPart := st.nextPart + 1 }, build := some (c.build.getD [] ++ recs),
           copyTimer := some 0 }

/-- A COPY-PART at a requester (R90). -/
def State.copyPart (orig : Station) (body : List Byte) (s : State) : State :=
  match body, s.cu.stream with
  | number :: index :: bytes, some st =>
    if s.cu.awaited ≠ some orig ∨ number ≠ st.number then s
    else if index.toNat < st.nextPart then s.answerCopy
    else if st.nextPart < index.toNat then s.copyFailure .partMissed
    else
      match readRecs bytes with
      | none => s.copyFailure .partMissed
      | some recs =>
        let s1 := s.onCu (Cu.takePart st recs)
        if st.nextPart + 1 = st.partCount then s1.install else s1.answerCopy
  | _, _ => s

end Sys2Proof.Machine
end

