-- ==== Sys2Proof/Machine/FrameEngine.lean ====
section
/-! DEFINITION. The Frame Engine and the Line Interface (Sections 7 and 8): line state, hand-over of rolls, discard and
acceptance of frames, ends of attempts, and the take of a frame. -/

namespace Sys2Proof.Machine

/-! ### Time on the line: the drive of LTX and the filtered level of LRX (R144, R145, R147) -/

/-- What is left of a drive after `t` fortieths of Q (R147). -/
def Drive.after (t : Nat) (d : Drive) : Option Drive := if d.left ≤ t then none else some { d with left := d.left - t }

/-- `t` fortieths of Q pass: the level has lasted so much longer, a drive comes so much nearer to its end, and the roll
window is so much further. -/
def Lif.pass (t : Nat) (l : Lif) : Lif :=
  { l with lasted := l.lasted + t, drive := l.drive.bind (Drive.after t), sinceReport := l.sinceReport + t }

/-- The level has lasted `n` fortieths of Q: the time not yet known to have passed passes. -/
def Lif.lastingTo (n : Nat) (l : Lif) : Lif := l.pass (n - l.lasted)

/-- An edge of the filtered level, unless it stands there already. -/
def Lif.edge (low : Bool) (l : Lif) : Lif := if l.low = low then l else { l with low := low, lasted := 0 }

/-- A dominant pulse that has lasted `n`. -/
def Lif.dominantFor (n : Nat) (l : Lif) : Lif := (l.edge true).lastingTo n

/-- A dominant pulse of length `n` has ended. -/
def Lif.pulse (n : Nat) (l : Lif) : Lif := (l.dominantFor n).edge false

/-- LTX is driven for a symbol from here on; a drive under way ends (R147). -/
def Lif.drives (x : Symbol) (l : Lif) : Lif := { l with drive := some { symbol := x, left := x.length } }

/-- The fortieths of Q for which `x` is still to be driven. -/
def Lif.driveLeft (x : Symbol) (l : Lif) : Nat :=
  match l.drive with
  | some d => if d.symbol = x then d.left else 0
  | none => 0

/-- The own frame and the own slot are over by now; an own HALT goes on to the end of its 12Q (R147). -/
def Lif.haltAlone (l : Lif) : Lif := { l with drive := l.drive.filter fun d => d.symbol == .haltSymbol }

/-- The line state becomes `st`. -/
def State.setLine (st : LineState) (s : State) : State := s.onLif fun l => { l with line := st }

/-! ### Line state (R157, R167) -/

/-- A dominant edge leaves IDLE: BUSY with a pulse under classification, and the yield timer stops (R157, R167). -/
def State.leaveIdle (s : State) : State :=
  if s.lif.line = .idle then
    (s.setLine (.busy .pulse)).onFe fun f => { f with yieldTimer := none }
  else s

/-- The yield hold is set (R167). -/
def State.setHold (s : State) : State := s.onFe fun f => { f with hold := true }

/-! ### Rolls (R40, R177) -/

/-- The end of the roll window: the slots are forgotten and a pending slot drive is dropped (R177, R178). -/
def Fe.endRoll (f : Fe) : Fe := { f with rollUse := .none, slots := [], slotRequest := false }

/-- The roll handed to the block that received the frame it follows (R177). -/
def State.handRoll (roll : Roll) (s : State) : State :=
  let s1 := s.onFe Fe.endRoll
  match s.fe.rollUse with
  | .none => s1
  | .order => s1.orderRoll roll
  | .log repNo => s1.onCu (Cu.logRoll repNo roll)
  | .ownHail => s1.hailAnswer roll
  | .hail hailer => s1.selectSource hailer roll
  | .ownCopy => s1.copyRoll roll

/-- The Line Interface is in the roll window or the REST (R150, R151). -/
def Lif.inRoll (l : Lif) : Bool := l.line == .busy .roll || l.line == .busy .rest

/-- A roll window in progress is cut short and read as unreadable (R151, R153, R155, R177). -/
def State.cutRoll (s : State) : State := if s.lif.inRoll then s.handRoll .unreadable else s

/-! ### Discards (R164) -/

/-- The frame in reception is discarded: the yield hold is set, and a FOUNDING station that was not its sender returns
to HAILING (R58, R164, R167). -/
def State.discardFrame (s : State) : State :=
  match s.fe.rx with
  | none => s
  | some r =>
    let s1 := s.onFe fun f => { f with rx := none, hold := true }
    if r.mark then s1 else s1.foundingAbort

/-! ### Ends of attempts (R171, R174) -/

/-- A counted try of a frame pending from the TC or the CU: dropped at the eighth (R174). -/
def countTry (tries : Nat) : Option Nat := if maxTries ≤ tries + 1 then none else some (tries + 1)

/-- A try counted against the join's frame, HAIL or JOIN; at the eighth the join is abandoned (R67, R174). -/
def State.joinTry (k : FrameKind) (s : State) : State :=
  match k with
  | .hail =>
    match s.fe.hail with
    | none => s
    | some n => if (countTry n).isNone then s.abandonJoin .hail else s.onFe fun f => { f with hail := countTry n }
  | _ =>
    match s.fe.join with
    | none => s
    | some n => if (countTry n).isNone then s.abandonJoin .join else s.onFe fun f => { f with join := countTry n }

/-- A try counted against the pending copy frame; at the eighth the stream is abandoned, and a new one may begin (R81). -/
def State.copyTry (s : State) : State :=
  match s.fe.copy with
  | none => s
  | some n => if (countTry n).isNone then s.abandonStream.startStream else s.onFe fun f => { f with copy := countTry n }

/-- A try counted against the pending REPEAT; at the eighth it is dropped and the obligation ends (R41, R174). -/
def Fe.repeatTry (f : Fe) : Fe :=
  { f with rept := f.rept.bind fun p => (countTry p.tries).map fun n => { p with tries := n } }

/-- The end of a counted attempt is reported to its source (R174). When the internal TOUCH is dropped, the wait-probe
timer restarts if a ticket is WAITING (R121). -/
def State.reportTry (src : Source) (s : State) : State :=
  match src with
  | .rept => s.onFe Fe.repeatTry
  | .join => s.joinTry .join
  | .hail => s.joinTry .hail
  | .copy => s.copyTry
  | .request => let x := s.ru.requestTry; (s.onRu fun _ => x.1).postAll x.2
  | .touch =>
    let x := s.ru.touchTry
    let s1 := (s.onRu fun _ => x.1).postAll x.2
    if x.2.isEmpty then s1 else s1.restartWait

/-- The attempt in progress, if any, ends with a counted try; of a withdrawn frame the end is reported to no block
(R174, R175). -/
def State.attemptFailed (s : State) : State :=
  match s.fe.tx with
  | none => s
  | some a =>
    let s1 := s.onFe fun f => { f with tx := none }
    if a.withdrawn then s1 else s1.reportTry a.source

/-- An attempt that a bit fault stopped, and whose HALT never showed on LRX, ends with a counted try when the line is next
IDLE: Table 8.7-2 names no end for it. A frame that its source withdrew before, as the Request Unit does at a lag event,
counts none (DESIGN CHOICE, log entry 12). -/
def State.endFaulted (s : State) : State := if s.fe.tx.any fun a => a.faulted then s.attemptFailed else s

/-- The report of IDLE (R157): with the hold set, the yield timer starts from zero (R167). -/
def State.lineIdle (s : State) : State :=
  (s.endFaulted.setLine .idle).onFe fun f => { f with yieldTimer := if f.hold then some 0 else none }

/-- The attempt in progress ends without a try counted: the source keeps its frame pending (R107, R171). -/
def State.attemptEnded (s : State) : State :=
  (s.onFe fun f => { f with tx := none }).onRu Ru.offLine

/-- The arbitration is lost (R171): the frame stays pending with no try counted, and the frame in reception is no longer the
station's own. No drive is cut: the loser's BIT0 has ended by the point of the test. -/
def State.loseArbitration (s : State) : State :=
  (s.attemptEnded.onFe fun f => { f with rx := f.rx.map fun r => { r with mark := false } }).onLif Lif.haltAlone

/-- A bit fault (R172, R173): the HALT is driven at once, after DUPLICATE-SUSPECT when the fault marks a second station with
the own number. The attempt ends at the report of the HALT. -/
def State.faultFound (duplicate : Bool) (s : State) : State :=
  let s1 := if duplicate then s.post (duplicateNotice s.self) else s
  (s1.onFe fun f => { f with tx := f.tx.map fun a => { a with faulted := true } }).onLif (Lif.drives .haltSymbol)

/-- The attempt in progress that still sends: taken, and no bit fault found yet. -/
def State.sending (s : State) : Option Attempt := s.fe.tx.filter fun a => !a.faulted

/-- The bit of the attempt that stands at the place of the next bit to be received. -/
def Attempt.bitAt (a : Attempt) (r : Reception) : Option Bool := a.bits[r.bits.length]?

/-- The place of the next bit lies in the arbitration field, the first six bits (R171). -/
def Reception.inArbitration (r : Reception) : Bool := r.bits.length < 6

/-- The symbol of the own frame that the next pulse on the line is compared with (R172): the OPEN until it has been read,
then each bit. None when the station does not send, and once its last check bit has been read. -/
def State.underTest (s : State) : Option Symbol :=
  s.sending.bind fun a =>
    match s.fe.rx with
    | none => if s.lif.line = .busy .pulse then some .openSymbol else none
    | some r => (a.bitAt r).map .bit

/-- The sender finds its test failed (R171 to R173): the pulse ran on past the drive, or any other difference. A BIT0 of the
arbitration field that stays dominant is a loss; every other failed test is a bit fault, which marks a duplicate when a
BIT0 after the arbitration field stayed dominant. -/
def State.testFailed (x : Symbol) (late : Bool) (s : State) : State :=
  let field := s.fe.rx.any Reception.inArbitration
  if x = .bit false ∧ late ∧ field then s.loseArbitration else s.faultFound (x == .bit false && late && !field)

/-- A sender that has found no fault yet finds one now; of the forms that mark no duplicate (R172, R173). -/
def State.senderFault (s : State) : State := if s.sending.isSome then s.faultFound false else s

/-- The symbol under test has been asked for: the OPEN by the take, a bit by its BIT_DRIVE (R144, R147). -/
def State.asked (s : State) : Bool :=
  match s.fe.rx with
  | none => true
  | some r => s.fe.tx.any fun a => r.bits.length < a.driven

/-- The sender still waits on LRX for the pulse of the symbol it was asked to drive: what is left of that drive (R172). -/
def State.pulseDue (s : State) : Option Nat :=
  match s.underTest with
  | none => none
  | some x =>
    if s.asked && !s.lif.low && (s.lif.line == .busy .frame || s.lif.line == .busy .pulse) then
      some (s.lif.driveLeft x)
    else none

/-- The sender finds that no pulse has started within its own drive (R172): a bit fault of a form that marks no duplicate
(R173). -/
def State.startFault (s : State) : State :=
  (s.onFe fun f => { f with tx := f.tx.map fun a => { a with missed := true } }).faultFound false

/-- `t` fortieths of Q pass with LRX recessive. A pulse that the sender waits for must start within its own drive (R172): the
fault is found when the drive ends. DESIGN CHOICE, log entry 29: Table 8.7-1 gives this test no point, and the end of the
drive is the first at which it has failed. -/
def State.quietPassed (t : Nat) (s : State) : State :=
  match s.pulseDue with
  | some n => if n ≤ t then (s.onLif (Lif.pass n)).startFault.onLif (Lif.pass (t - n)) else s.onLif (Lif.pass t)
  | none => s.onLif (Lif.pass t)

/-- A recessive stretch of `gap` has ended in a dominant edge; nothing is added where that edge has been reported before. -/
def State.stretchPassed (gap : Nat) (s : State) : State :=
  if s.lif.low then s else (s.quietPassed (gap - s.lif.lasted)).onLif (Lif.edge true)

/-- A pulse that begins now, or stands on the line already, is none that started within the sender's own drive (R172): the
symbol was not asked for, or its drive had run out before the edge. A pulse that another sender began slightly before the
own drive has been asked for by its end, and is compared as the own one. -/
def State.startOff (s : State) : Bool := s.underTest.isSome && (!s.asked || s.pulseDue == some 0)

/-- The sender's tests on a pulse that has lasted `len` (R172, Table 8.7-1), each at its point: not started within the own
drive, still dominant too late, or recessive too early. DESIGN CHOICE, log entry 29: the first of them has no point in the
table, and the model finds it at the pulse's beginning, or, in a pulse under way whose symbol was never asked for, where its
end is reported. -/
def State.pulseTested (len : Nat) (s : State) : State :=
  match s.underTest with
  | none => s
  | some x =>
    if s.startOff then s.startFault
    else if x.window.2 < len then (s.onLif (Lif.dominantFor x.window.2)).testFailed x true
    else if len < x.window.1 then (s.onLif (Lif.dominantFor len)).testFailed x false
    else s

/-! ### Acceptance (R163 to R166, R176) -/

/-- The attempt was accepted at its CLOSE: it leaves the selector, unless its source had withdrawn it (R174, R175). -/
def State.attemptSent (a : Attempt) (s : State) : State :=
  s.onFe fun f => if a.withdrawn then { f with tx := none } else { f.dropPending a.source with tx := none }

/-- An order-class frame is handed over (R32, R165). -/
def State.handOrder (f : Frame) (op : OrderOp) (own : Option Source) (s : State) : State :=
  match s.tc.state with
  | .joining => s.orderInStep f op own
  | .member => s.orderInStep f op own
  | .leaving => s.orderInStep f op own
  | .founding => if own.isSome && op == .join && f.turn == 0 then s.applyFrame f op own else s.foundingAbort
  | .hailing => s.logFrame f op
  | .copying => s.logFrame f op
  | .offline => s

/-- A copy frame is handed over (R58, R83, R165); `own` says that it is a frame of the station's own stream. -/
def State.handCopy (f : Frame) (own : Bool) (s : State) : State :=
  match s.tc.state with
  | .founding => s.foundingAbort
  | .member => if own then s.armRoll .ownCopy false else s
  | .copying =>
    match f.payload with
    | .copyHead body => s.copyHead f.orig body
    | .copyPart body => s.copyPart f.orig body
    | _ => s
  | _ => s

/-- A HAIL is handed over (R53 to R55, R165): the own HAIL starts the log, and a MEMBER answers another station's. -/
def State.handHail (f : Frame) (own : Bool) (s : State) : State :=
  if own then (if s.tc.state = .hailing then (s.onCu Cu.startLog).armRoll .ownHail false else s)
  else if s.tc.state = .member then s.armRoll (.hail f.orig) true
  else s

/-- An accepted frame is handed over by its class, after the closure it may bring on (R42, R165). `own` is the attempt
when the frame is the station's own transmission (R166). -/
def State.handFrame (f : Frame) (own : Option Attempt) (s : State) : State :=
  let s1 := s.closeBefore f
  match f.payload with
  | .order op => s1.handOrder f op (own.map fun a => a.source)
  | .hail => s1.handHail f own.isSome
  | _ => s1.handCopy f (own.any fun a => a.source == .copy && !a.withdrawn)

/-- The frame in reception is accepted: its own mark is settled, its attempt ends, it is handed over, and an order-class
frame sets the yield hold (R165 to R167). -/
def State.acceptedFrame (f : Frame) (r : Reception) (s : State) : State :=
  let own := if r.mark then s.sending else none
  let s1 := s.onFe fun g => { g with rx := none }
  let s2 := match own with
    | none => s1
    | some a => s1.attemptSent a
  let s3 := s2.handFrame f own
  if f.isOrder then s3.setHold else s3

/-! ### The take (R168 to R170) -/

/-- The order frame with turn T that the own station builds (R170). -/
def State.ownOrder (op : OrderOp) (s : State) : Frame :=
  { payload := .order op, repNo := 0, orig := s.self, turn := s.tc.turn }

/-- What the take does at the source: the head request or the internal TOUCH goes on the line (R106, R120), and a
COPY-HEAD with repeat number 0 takes its snapshot (R77). -/
def State.takeAtSource (src : Source) (s : State) : State :=
  match src with
  | .request => s.onRu Ru.takeHead
  | .touch => s.onRu fun r => { r with touchOnLine := true }
  | .copy => if s.cu.phase = .head ∧ s.cu.repNo = 0 then s.snapshot else s
  | _ => s

/-- The frame that the take builds (R170). -/
def State.buildFrame (src : Source) (s : State) : Option Frame :=
  match src with
  | .rept => s.fe.rept.map fun p => p.frame
  | .join => some (s.ownOrder .join)
  | .touch => some (s.ownOrder .touch)
  | .request => s.ru.queue.head?.map fun q => s.ownOrder q.op.order
  | .copy => s.copyFrame
  | .hail => some { payload := .hail, repNo := 0, orig := s.self, turn := 0 }

/-- The frame in transmission of a frame taken from `src` (R170). -/
def attemptOf (src : Source) (f : Frame) : Attempt :=
  { source := src, frame := f, bits := f.bits, driven := 0, faulted := false, missed := false, withdrawn := false }

/-- The take: the source's frame is built, the OPEN is driven, and the line leaves IDLE (R144, R169, R170). -/
def State.take (src : Source) (s : State) : State :=
  let s1 := s.takeAtSource src
  match s1.buildFrame src with
  | none => s
  | some f =>
    (s1.leaveIdle.onFe fun g => { g with tx := some (attemptOf src f) }).onLif (Lif.drives .openSymbol)

/-! ### The lapse of the yield interval and the other timers (R50, R87, R92, R167) -/

/-- The yield interval has lapsed (R167): the closure is taken, the newest log entry closed, the hold cleared. The start
opportunity that the lapse opens is a FRAME_TAKE. -/
def State.yieldLapsed (s : State) : State :=
  (s.takeClosure.onCu Cu.closeNewest).onFe fun f => { f with hold := false, yieldTimer := none }

/-- The wait-probe timer has run out (R50). -/
def State.waitRunOut (s : State) : State := (s.onRu fun r => { r with touchFlag := true }).stopWait

/-- 48Q of quiet in UNSYNCED (R154). -/
def State.quietSynced (s : State) : State := (s.onLif (Lif.lastingTo 1920)).lineIdle

/-- 48Q of quiet in STUCK (R156): LINE-CLEAR, the hold set, the line IDLE. -/
def State.stuckCleared (s : State) : State :=
  (((s.onLif fun l => (l.edge false).lastingTo 1920).post { kind := .lineClear }).setHold).lineIdle

end Sys2Proof.Machine
end

