-- ==== Sys2Proof/Machine/LineInterface.lean ====
section
/-! DEFINITION. What the Line Interface makes of a pulse or a recessive stretch in each of its states (R148 to R156), and
what the Frame Engine does at each report. Lengths are in fortieths of Q, on the filtered level (R145). -/

namespace Sys2Proof.Machine

/-! ### Reports -/

/-- An OPEN where a frame may begin (R151, R154, R162): a roll in its REST is cut short, and a frame in reception starts. It
is marked as the station's own when the own OPEN drive was taken for it, that is, when the pulse is the one that the take
put under classification and it started within that drive; a bit fault of the OPEN found later in it, and its HALT, do not
take the mark back. An OPEN that began after the own drive had run out is another station's (R166, R172). -/
def State.openSeen (s : State) : State :=
  let own := (s.fe.tx.any fun a => !a.missed) && s.lif.line == .busy .pulse
  (s.leaveIdle.cutRoll.setLine (.busy .frame)).onFe fun f => { f with rx := some (Reception.start own) }

/-- A bit of a frame (R162): it is appended to the frame in reception. -/
def State.bitSeen (b : Bool) (s : State) : State := s.onFe fun f => { f with rx := f.rx.map fun r => r.push b }

/-- A HALT (R153, R174, R179): a roll is cut short, the frame in reception is discarded, an attempt ends with a counted
try, the hold is set and the halt-rest begins. DESIGN CHOICE, log entry 31: the roll is handed over first, then the
frame is discarded, then the attempt ends, and no rule gives the order. It shows where one of the first two withdraws the
frame of an attempt that a fault has stopped: in FOUNDING the discard of a frame not marked own withdraws the JOIN, so an
attempt of it whose OPEN was missed ends with no try. -/
def State.haltSeen (s : State) : State :=
  (((s.leaveIdle.cutRoll.discardFrame.attemptFailed).setLine (.busy .haltRest)).onLif Lif.haltAlone).setHold

/-- Damage (R152, R164): a roll in its REST is cut short, the frame in reception is discarded, and the Line Interface is
UNSYNCED. A sender finds a bit fault in it and asks for its HALT at once (R172, R173). DESIGN CHOICE, log entry 27: this
stands up to the CLOSE. The tests of Table 8.7-1 run to the last check bit, and Table 8.7-2 names no end for damage
between that bit's pulse and the CLOSE; the model takes it as a bit fault too, with its HALT and its counted try. -/
def State.damageSeen (s : State) : State :=
  ((s.leaveIdle.cutRoll.discardFrame).setLine .unsynced).senderFault

/-! ### Pulses -/

/-- A pulse of a frame after a separation, or where a frame may begin: the sender's tests at their points, and the pulse's
end. -/
def State.pulsePassed (len : Nat) (s : State) : State := (s.pulseTested len).onLif (Lif.pulse len)

/-- A pulse in UNSYNCED: an OPEN or a HALT synchronises, and the count of quiet starts at the pulse's end (R154). A length
below 1/8Q is that of a level which stood on LRX at the reset (R145, log entry 1). -/
def State.unsyncedPulse (len : Nat) (s : State) : State :=
  match readPulse len with
  | .stuck => s
  | .halt => (s.onLif (Lif.pulse len)).haltSeen
  | .openSymbol => (s.onLif (Lif.pulse len)).openSeen
  | _ => s.onLif (Lif.pulse len)

/-- A dominant edge at a point of Table 7.2-3 that reads damage, after a recessive stretch of `gap` (R149, R152). -/
def State.gapDamaged (gap : Nat) (s : State) : State := (s.stretchPassed gap).damageSeen

/-- A pulse between the OPEN and the CLOSE, after a separation (Table 7.2-2). -/
def State.framePulse (len : Nat) (s : State) : State :=
  match readPulse len with
  | .unseen => s
  | .stuck => s
  | .halt => (s.pulsePassed len).haltSeen
  | .bit b => (s.pulsePassed len).bitSeen b
  | .damage => (s.pulsePassed len).damageSeen
  | .openSymbol => (s.pulsePassed len).damageSeen

/-- A pulse between the OPEN and the CLOSE after a recessive stretch of `gap` (Table 7.2-3): after a stretch that reads
damage it is a pulse of UNSYNCED, where an OPEN may begin a frame. From 3.5Q on the CLOSE has been reported, so no such
pulse is one of the frame. -/
def State.frameStretchPulse (gap len : Nat) (s : State) : State :=
  if isGapDamage gap then (s.gapDamaged gap).unsyncedPulse len
  else if isSeparation gap then (s.stretchPassed gap).framePulse len
  else s

/-- A pulse where a frame may begin: in IDLE, under classification, in the REST and in the halt-rest (R148, R151, R153). -/
def State.startPulse (len : Nat) (s : State) : State :=
  match readPulse len with
  | .unseen => s
  | .stuck => s
  | .halt => (s.pulsePassed len).haltSeen
  | .openSymbol => (s.pulsePassed len).openSeen
  | .bit _ => (s.pulsePassed len).damageSeen
  | .damage => (s.pulsePassed len).damageSeen

/-- A dominant pulse that has ended, in whatever state the Line Interface is (R148, R152 to R156), with the recessive stretch
before it where the event carries one. In the roll window a HALT alone is reported here; other pulses there are read with
their slot (R150). In STUCK only the edges count (R156). A stretch of 40Q is reported by `State.stuckSeen` when it is
reached, not at its end (R155). DESIGN CHOICE, log entry 28: R151 speaks only of a dominant edge inside the REST. A pulse of
slot 15 read as too long, and still on the line when the REST begins, is taken here at its end as a pulse of the REST. -/
def State.pulseEnded (gap : Option Nat) (len : Nat) (s : State) : State :=
  match s.lif.line with
  | .busy .frame =>
    match gap with
    | some g => s.frameStretchPulse g len
    | none => s.framePulse len
  | .busy .roll => if readPulse len = .halt then (s.onLif (Lif.pulse len)).haltSeen else s
  | .unsynced => s.unsyncedPulse len
  | .stuck => if readPulse len = .unseen then s else s.onLif (Lif.pulse len)
  | _ => s.startPulse len

/-- A pulse of this length, after this recessive stretch, is an event of damage in this line state (R152). -/
def readsDamage (line : LineState) (gap len : Nat) : Bool :=
  match line, readPulse len with
  | _, .unseen => false
  | _, .stuck => false
  | .unsynced, _ => false
  | .stuck, _ => false
  | .busy .roll, _ => false
  | .busy .frame, .damage => gap < 140
  | .busy .frame, .openSymbol => gap < 140
  | .busy .frame, _ => isGapDamage gap
  | _, .bit _ => true
  | _, .damage => true
  | _, _ => false

/-- 40Q of continuous dominant (R155, R178): the sender's tests have met their points, LTX is released, an attempt ends with a
counted try, the frame in reception is discarded, a roll is read as unreadable, LINE-STUCK is posted and the line state is
STUCK. -/
def State.stuckSeen (s : State) : State :=
  let s1 := (s.leaveIdle.pulseTested 1600).onLif fun l => { l.dominantFor 1600 with drive := none }
  ((s1.attemptFailed.discardFrame.cutRoll).post { kind := .lineStuck }).setLine .stuck

/-! ### The CLOSE and the roll window -/

/-- The Line Interface at the CLOSE, with the line recessive for 3.5Q at least: the roll window begins, and only an own HALT
may still be driven. The CLOSE stands 0.5Q before slot 0, and what is known to have passed after it counts from there, so the
roll origin is 4Q after the last recessive edge (R149, R150). -/
def Lif.closed (l : Lif) : Lif :=
  { l.haltAlone with
    line := .busy .roll, slotAt := -20, sinceReport := l.lasted - 140, slotHeld := none, slotSpoilt := false }

/-- The CLOSE of the frame in reception (R149, R163 to R165): the roll window begins, and the frame is accepted and handed
over or discarded. A sender whose next bit has not appeared on the line finds a bit fault there at the latest, where no drive
of that bit has ended before (R172; DEDUCED, log entry 12). -/
def State.closeSeen (r : Reception) (s : State) : State :=
  let s1 := s.quietPassed (140 - s.lif.lasted)
  let s2 := ((if s1.underTest.isSome then s1.senderFault else s1).onLif Lif.closed).onFe Fe.endRoll
  match acceptFrame r.bits r.crc with
  | some f => s2.acceptedFrame f r
  | none => (if s2.sending.isSome then s2.attemptEnded else s2).discardFrame

/-- The Line Interface at the report of slot `k` (R150): the time since the report before has passed, and the point of the
report is counted from the start of the slot after. What is known to have passed beyond that point counts on at the level
that stood there, so the 10Q and the 40Q of a pulse run from its edge (R150, R155). After slot 15 the REST begins. -/
def Lif.slotReported (k : Nat) (r : SlotReport) (l : Lif) : Lif :=
  { line := if k = 15 then .busy .rest else l.line
    drive := (l.pass (r.time - l.sinceReport)).drive
    low := r.low
    lasted := r.lasted + (l.sinceReport - r.time)
    slotAt := l.slotAt + r.time - 80
    sinceReport := l.sinceReport - r.time
    slotHeld := r.held
    slotSpoilt := r.spoilt }

/-- The report of slot `k` (R150): its reading is kept, and a request to drive the own slot is over with that slot. -/
def State.slotEnded (k : Nat) (r : SlotReport) (s : State) : State :=
  (s.onFe fun f =>
    { f with slots := f.slots ++ [r.reading], slotRequest := f.slotRequest && k != s.self.val }).onLif
      (Lif.slotReported k r)

/-- The fortieths of Q up to the start of the own slot, when slot `k` is the next to be reported: the own slot, or the one
before it, whose pulse may run on into the own slot (R150). None when the own slot has begun already, or lies further
off. -/
def Lif.toOwnSlot (self : Station) (k : Nat) (l : Lif) : Option Nat :=
  let ahead : Int := 80 * ((self.val : Int) - k) - (l.slotAt + l.sinceReport)
  if (k = self.val ∨ k + 1 = self.val) ∧ 0 ≤ ahead then some ahead.toNat else none

/-- A pulse on the line is known to have reached 10Q. In the roll window it has ended the window: no slot is reported any
more, and none is driven (R150, R176). -/
def Lif.reachedHalt (l : Lif) : Bool := l.low && 400 ≤ l.lasted

/-- The Line Interface at the start of the own slot, `t` from here, with the stretches that LRX showed since the last report
(R145, R150). -/
def Lif.atOwnSlot (t : Nat) (runs : List Nat) (l : Lif) : Lif :=
  if runs.length = 1 then l.pass t
  else { l.pass t with low := levelAfter l.slotHeld runs, lasted := lastedAfter l.slotHeld runs }

/-- The roll window is still open after the stretches that LRX showed since the last report: no pulse has reached 10Q
(R150). -/
def Lif.windowOpen (runs : List Nat) (l : Lif) : Bool := !l.reachedHalt && carriedLength l.slotHeld runs < 400

/-- The REST has ended, 6Q after slot 15, which lies where the reports of the slots put it (R151). -/
def Lif.restOver (l : Lif) : Lif := l.pass (240 - (l.slotAt + l.sinceReport)).toNat

end Sys2Proof.Machine
end

