-- ==== Sys2Proof/Machine/Result.lean ====
section
/-! DEFINITION. The result of a command. Every command answers a next state: the manual stops the part at none. -/

namespace Sys2Proof.Machine

/-- What a command answers. -/
abbrev Result := Host.Outcome State Fault Refusal

/-- A command of the line or of a timer: while RESETN is LOW the part is held in reset, and nothing reaches it (R141,
R158). -/
def live (f : State → State) (s : State) : Result := .next (if s.pins.resetLow then s else f s)

end Sys2Proof.Machine
end

