-- ==== Sys2Proof/Machine/FrameCommands.lean ====
section
/-! DEFINITION. The commands of frames: the CLOSE, the take, the sender's drive of a bit and its tests (Section 8). -/

namespace Sys2Proof.Machine

/-- FRAME_CLOSE: the CLOSE of the frame in reception (R149, R163). It hangs on LRX alone, whatever is sent (R145, R152). -/
def execFrameClose (s : State) : Result :=
  live (fun s =>
    match s.fe.rx with
    | some r => if s.lif.line = .busy .frame ∧ s.lif.low = false then s.closeSeen r else s
    | none => s) s

/-- FRAME_TAKE: the selector takes a frame at a start opportunity (R168 to R170). Where none may start, the opportunity
passes; with the line no longer IDLE the OPEN is refused and the frame stays pending (R144). -/
def execFrameTake (s : State) : Result :=
  live (fun s =>
    match s.selected with
    | some src => s.take src
    | none => s) s

/-- ARBITRATION_LOST: a BIT0 of the arbitration field is still dominant at 1.5Q (R171). -/
def execArbitrationLost (s : State) : Result :=
  live (fun s =>
    if s.underTest = some (.bit false) ∧ s.fe.rx.any Reception.inArbitration ∧ s.startOff = false then
      (s.onLif (Lif.dominantFor 60)).testFailed (.bit false) true
    else s) s

/-- A sender finds its fault in a pulse that the Line Interface reports as damage, at the pulse's end, unless a test at a
point of the pulse failed before (R172). -/
def State.pulseFault (len : Nat) (s : State) : State := ((s.pulseTested len).onLif (Lif.dominantFor len)).senderFault

/-- A sender finds its fault in the damage that the Line Interface reports (R152, R172): at the dominant edge that ends a bad
stretch, or at the end of a pulse that has no place where it falls. -/
def State.damageFault (cause : DamageCause) (s : State) : State :=
  match cause with
  | .stretch gap =>
    match Stretch.seen gap with
    | some g => if s.lif.line = .busy .frame ∧ isGapDamage g then (s.stretchPassed g).senderFault else s
    | none => s
  | .pulse gap pulse =>
    match Stretch.seen gap, Stretch.seen pulse with
    | some g, some len =>
      if readsDamage s.lif.line g len = false then s
      else if s.lif.line ≠ .busy .frame then s.pulseFault len
      else if isGapDamage g then (s.stretchPassed g).senderFault
      else (s.stretchPassed g).pulseFault len
    | _, _ => s

/-- BIT_FAULT: a sender's check fails, at the point of its test, and the time up to that point has passed (R172, R173).
Before the OPEN has been read, it is the OPEN that is checked. A line still dominant too late is found at the second point
of the symbol's row of Table 8.7-1, and a pulse that has not begun when its drive ends is found there. A pulse that did not
start within the own drive is found so whatever its length (log entry 29). -/
def execBitFault (form : FaultForm) (s : State) : Result :=
  live (fun s =>
    match s.underTest with
    | none => s
    | some x =>
      match form with
      | .late =>
        if s.startOff then s.pulseFault x.window.2 else (s.onLif (Lif.dominantFor x.window.2)).testFailed x true
      | .early pulse =>
        match Stretch.seen pulse with
        | some len => if len < x.window.1 then s.pulseFault len else s
        | none => s
      | .edge gap =>
        match Stretch.seen gap with
        | some g => if s.lif.line = .busy .frame ∧ g < 20 then (s.stretchPassed g).senderFault else s
        | none => s
      | .damaged cause => s.damageFault cause
      | .absent => s.pulseDue.elim s fun n => s.quietPassed n) s

/-- The sender's next bit is due: it has not been asked for yet, and 1Q passes after the line went recessive, or, where
another sender's pulse has begun slightly before, that pulse is in its first quantum (R147, R172). -/
def State.bitDue (s : State) : Bool :=
  s.lif.line == .busy .frame && (if s.lif.low then s.lif.lasted < 40 else s.lif.lasted ≤ 40) &&
    s.fe.tx.any fun a => s.fe.rx.any fun r => a.driven ≤ r.bits.length

/-- The bit at the place of the next bit to be received has been asked for (R147). -/
def Fe.askBit (f : Fe) : Fe :=
  { f with tx := f.tx.map fun a => { a with driven := f.rx.elim a.driven fun r => r.bits.length + 1 } }

/-- BIT_DRIVE: the sender starts its next bit (R144, R147). What is left of the drive before it, when LRX showed its pulse
shorter than driven, is over by then. -/
def execBitDrive (s : State) : Result :=
  live (fun s =>
    match s.underTest with
    | some (.bit b) =>
      if s.bitDue then
        (s.onFe Fe.askBit).onLif fun l => (if l.low then l else l.lastingTo 40).drives (.bit b)
      else s
    | _ => s) s

end Sys2Proof.Machine
end

