-- ==== Sys2Proof/Machine/HostPort.lean ====
section
/-! DEFINITION. The Host Port (Section 6): the take of a command, the effect and reply of each, the ends of replies and of
transactions, and the resets. -/

namespace Sys2Proof.Machine

/-- The reply to a command, as its owner gives it: the state after the command, the reply code, the reply data bytes,
and whether it is a FETCH that reports a notice. -/
structure Reply where
  state : State
  code : ReplyCode
  data : List Byte
  reported : Bool

/-- A reply without data (R124). -/
def Reply.bare (s : State) (c : ReplyCode) : Reply := { state := s, code := c, data := [], reported := false }

/-- The 14 data bytes of STATUS (Table 9.5-1). -/
def State.statusData (s : State) : List Byte :=
  [s.tc.state.code, stationByte s.hp.station, BitVec.ofNat 8 s.hp.quantum.val] ++ wordBytes s.tc.turn ++
    wordBytes s.tc.roster ++
    [BitVec.ofNat 8 s.ru.queue.length, BitVec.ofNat 8 s.hp.notices.length,
      0#6 ++ (BitVec.ofBool s.hp.truncated ++ BitVec.ofBool s.hp.overflow), BitVec.ofNat 8 s.hp.overflowCount,
      s.lif.line.code, s.hp.waitLimit, optionsByte s.hp.autoRejoin s.hp.peerNotices]

/-- STATUS (R128). -/
def State.statusReply (s : State) : Reply := { state := s, code := .ok, data := s.statusData, reported := false }

/-- CONFIGURE (R130). -/
def State.configureReply (limit options : Byte) (s : State) : Reply :=
  if s.tc.state ≠ .offline then Reply.bare s .state
  else if !optionsValid options then Reply.bare s .badOperand
  else
    Reply.bare
      (s.onHp fun h =>
        { h with waitLimit := limit, autoRejoin := options.getLsbD 0, peerNotices := options.getLsbD 1 })
      .ok

/-- The JOIN command (R52). -/
def State.joinReply (s : State) : Reply :=
  if s.tc.state = .offline then Reply.bare s.enterHailing .ok else Reply.bare s .state

/-- SUBMIT (R100, R132). -/
def State.submitReply (kind tag zone mode : Byte) (s : State) : Reply :=
  let x := s.ru.submit s.tc.state kind tag zone mode
  Reply.bare (s.onRu fun _ => x.1) x.2

/-- WITHDRAW (R103, R132). -/
def State.withdrawReply (tag : Byte) (s : State) : Reply :=
  let x := s.ru.withdraw tag
  Reply.bare (s.onRu fun _ => x.1) x.2

/-- FETCH (R134): the record of the oldest notice, or EMPTY. -/
def State.fetchReply (s : State) : Reply :=
  match s.hp.notices with
  | [] => { state := s, code := .empty, data := List.replicate 8 0xFF#8, reported := false }
  | n :: _ => { state := s, code := .ok, data := n.bytes, reported := true }

/-- READ-ZONE (R133). -/
def State.readZoneReply (zone : Byte) (s : State) : Reply :=
  match zoneOf zone with
  | none => { state := s, code := .zone, data := List.replicate 24 0xFF#8, reported := false }
  | some z => { state := s, code := .ok, data := zoneReply z (s.ztu.zone z) (s.ru.ticket z), reported := false }

/-- The effect and the reply of a command at its take (R125). RESTART is carried out at the rise of CSN (R142). -/
def State.reply (c : HostCmd) (s : State) : Reply :=
  match c with
  | .status => s.statusReply
  | .configure limit options => s.configureReply limit options
  | .join => s.joinReply
  | .submit kind tag zone mode => s.submitReply kind tag zone mode
  | .withdraw tag => s.withdrawReply tag
  | .fetch => s.fetchReply
  | .readZone zone => s.readZoneReply zone
  | .restart => Reply.bare s .ok
  | .bad _ => Reply.bare s .badCommand

/-- The command is recorded as taken in the transaction, its reply fixed (R125). -/
def Reply.commit (r : Reply) (c : HostCmd) : State :=
  r.state.onHp fun h =>
    { h with
      txn := some { sampled := bitsOf c.bytes,
                    taken := some { cmd := c, reply := r.code.byte :: r.data, shifted := 0, reported := r.reported,
                                    discards := 0 } } }

/-- The Host Port serves a transaction: RESETN is HIGH and a transaction is open (R141). -/
def State.openTxn (s : State) : Option Txn := if s.pins.resetLow then none else s.hp.txn

/-- The command `c` can be taken in transaction `t`: none has been taken, and the SDI bits sampled so far are the first
of the command's own bits (R123, R124, R191). -/
def Txn.admits (t : Txn) (c : HostCmd) : Bool :=
  t.taken.isNone && t.sampled.length < (bitsOf c.bytes).length && t.sampled == (bitsOf c.bytes).take t.sampled.length

/-- A command is taken at the edge that completes its last byte, with the edges before it that the transaction has not
seen one by one (R124). Where no transaction can take it, its bits are disregarded (R123, R141). -/
def State.takeCommand (c : HostCmd) (s : State) : State :=
  match s.openTxn with
  | none => s
  | some t => if t.admits c then (s.reply c).commit c else s

/-! ### The end of a reply (R129, R134) -/

/-- The number of bits of the reply. -/
def Taken.replyBits (k : Taken) : Nat := 8 * k.reply.length

/-- The last reply bit of a STATUS has been shifted out (R129): the flags are cleared, and the discards made since the take
kept for the next STATUS. -/
def Hp.clearFlags (k : Taken) (h : Hp) : Hp :=
  { h with overflow := k.discards != 0, overflowCount := min 255 k.discards, truncated := false }

/-- The effect of the end of a reply: STATUS clears its flags, a FETCH that reported a notice removes it (R129, R134). -/
def Hp.replyEnded (k : Taken) (h : Hp) : Hp :=
  match k.cmd with
  | .status => h.clearFlags k
  | .fetch => if k.reported then { h with notices := h.notices.drop 1 } else h
  | _ => h

/-- The transaction with the reply of its command shifted out to bit `n`. -/
def Hp.shiftedTo (t : Txn) (k : Taken) (n : Nat) (h : Hp) : Hp :=
  { h with txn := some { t with taken := some { k with shifted := n } } }

/-- The whole reply of the command under way has been shifted out, when the command is one of `which` and its reply was not
out before (R129, R134). -/
def State.endReply (which : HostCmd → Bool) (s : State) : State :=
  match s.openTxn with
  | none => s
  | some t =>
    match t.taken with
    | none => s
    | some k =>
      if which k.cmd && k.shifted < k.replyBits then
        s.onHp fun h => (h.shiftedTo t k k.replyBits).replyEnded k
      else s

/-! ### SPI edges (R123, R126) -/

/-- A rising edge of SCK (R123): before the take it samples SDI, and takes the command that its bit completes; after the
take it shifts out one more reply bit, with the end of the reply at its last. -/
def State.sckEdge (sdi : Bool) (s : State) : State :=
  match s.openTxn with
  | none => s
  | some t =>
    match t.taken with
    | some k =>
      s.onHp fun h =>
        let h1 := h.shiftedTo t k (k.shifted + 1)
        if k.shifted + 1 = k.replyBits then h1.replyEnded k else h1
    | none =>
      let sampled := t.sampled ++ [sdi]
      match if sampled.length % 8 = 0 then hostCmdOf (bytesOf sampled) else none with
      | some c => (s.reply c).commit c
      | none => s.onHp fun h => { h with txn := some { t with sampled := sampled } }

/-- A falling edge of CSN (R123): a transaction opens with nothing sampled. While RESETN is LOW it is disregarded (R141). -/
def State.openTransaction (s : State) : State :=
  if s.pins.resetLow then s.onPins fun p => { p with csnLow := true }
  else
    match s.hp.txn with
    | some _ => s
    | none =>
      (s.onPins fun p => { p with csnLow := true }).onHp fun h => { h with txn := some { sampled := [], taken := none } }

/-! ### Resets (R73, R141, R142) -/

/-- Every block but the Host Port takes its reset values (R25, R73, R74, R122, R158, R180). The level `low` that LRX shows
there counts as beginning there (R145). -/
def State.resetBlocks (low : Bool) (s : State) : State :=
  { s with lif := Lif.reset low, fe := Fe.reset, tc := Tc.reset, ztu := Ztu.reset, cu := Cu.reset, ru := Ru.reset }

/-- The Host Port after RESTART: the strap samples and the configuration values are kept (R142). -/
def Hp.softReset (h : Hp) : Hp :=
  { h with notices := [readyNotice h.station .softReset], overflow := false, overflowCount := 0, truncated := false,
           txn := none }

/-- RESTART carried out (R142), with the level on LRX as it stands there, which counts as beginning there (R145). -/
def State.softReset (lrxLow : Bool) (s : State) : State := (s.resetBlocks lrxLow).onHp Hp.softReset

/-- The release of RESETN, with the straps and the level on LRX as they stand there (R140, R141, R145). -/
def State.pinReset (sn : Station) (qs : Fin 4) (lrxLow : Bool) (s : State) : State :=
  ((s.resetBlocks lrxLow).onHp fun _ => Hp.pinReset sn qs).onPins fun p => { p with resetLow := false }

/-- RESETN falls (R141): LTX is released, and a transaction in progress is abandoned. -/
def State.holdReset (s : State) : State :=
  ((s.onPins fun p => { p with resetLow := true }).onHp fun h => { h with txn := none }).onLif fun l =>
    { l with drive := none }

/-- A rising edge of CSN ends the transaction (R126): the truncated flag is set when no command was taken and at least one
SCK edge fell within it, and a RESTART that was taken is carried out (R142). -/
def State.closeTransaction (lrxLow : Bool) (s : State) : State :=
  let s1 := s.onPins fun p => { p with csnLow := false }
  match s.openTxn with
  | none => s1
  | some t =>
    let s2 := s1.onHp fun h => { h with txn := none }
    match t.taken with
    | some k => if k.cmd = .restart then s2.softReset lrxLow else s2
    | none => if t.sampled.isEmpty then s2 else s2.onHp fun h => { h with truncated := true }

end Sys2Proof.Machine
end

