-- ==== Sys2Proof/Machine/HostCommands.lean ====
section
/-! DEFINITION. The commands of the host port: the takes, the ends of replies, and the SPI edges (Section 6). -/

namespace Sys2Proof.Machine

/-- STATUS (R128). -/
def execStatus (s : State) : Result := .next (s.takeCommand .status)

/-- STATUS_REPLY_END (R129). -/
def execStatusReplyEnd (s : State) : Result := .next (s.endReply fun c => c == .status)

/-- CONFIGURE (R130). -/
def execConfigure (limit options : Byte) (s : State) : Result := .next (s.takeCommand (.configure limit options))

/-- JOIN (R52, R132). -/
def execJoin (s : State) : Result := .next (s.takeCommand .join)

/-- SUBMIT (R100, R132). -/
def execSubmit (kind tag zone mode : Byte) (s : State) : Result := .next (s.takeCommand (.submit kind tag zone mode))

/-- WITHDRAW (R103, R132). -/
def execWithdraw (tag : Byte) (s : State) : Result := .next (s.takeCommand (.withdraw tag))

/-- FETCH (R134). -/
def execFetch (s : State) : Result := .next (s.takeCommand .fetch)

/-- FETCH_REPLY_END (R134). -/
def execFetchReplyEnd (s : State) : Result := .next (s.endReply fun c => c == .fetch)

/-- READ_ZONE (R133). -/
def execReadZone (zone : Byte) (s : State) : Result := .next (s.takeCommand (.readZone zone))

/-- RESTART (R142): taken here, carried out at the rise of CSN. -/
def execRestart (s : State) : Result := .next (s.takeCommand .restart)

/-- BAD_COMMAND (R124). A code that names a command is no bad command, and its event cannot occur: nothing changes. -/
def execBadCommand (code : Byte) (s : State) : Result :=
  .next (if operandCount code = none then s.takeCommand (.bad code) else s)

/-- TRANSACTION_END (R126, R142). -/
def execTransactionEnd (s : State) (lrxLow : Bool := false) : Result := .next (s.closeTransaction lrxLow)

/-- TRANSACTION_OPEN (R123). -/
def execTransactionOpen (s : State) : Result := .next s.openTransaction

/-- SCK_RISING_EDGE (R123). -/
def execSckRisingEdge (sdi : Bool) (s : State) : Result := .next (s.sckEdge sdi)

end Sys2Proof.Machine
end

