-- ==== Sys2Proof/Machine/LineCommands.lean ====
section
/-! DEFINITION. The commands of the line's pulses and levels (Section 7). A command whose lengths, on the filtered level
(R145), are not those of its row, or whose level on LRX stands against it, is no such event, and nothing changes. -/

namespace Sys2Proof.Machine

/-- The length of a pulse on the filtered level (R145). The dominant level that stood on LRX at a reset is the filtered level
from there on, so its pulse needs no 1/8Q to be seen (log entry 1). -/
def Lif.pulseLength (l : Lif) (pulse : Stretch) : Option Nat :=
  if l.line = .unsynced ∧ l.low then Stretch.running pulse else Stretch.seen pulse

/-- The length of a pulse, when its reading is one of those asked for (R145, R148). -/
def Lif.pulseRead (which : PulseReading → Bool) (l : Lif) (pulse : Stretch) : Option Nat :=
  (l.pulseLength pulse).filter fun n => which (readPulse n)

/-- The reading is one of a data bit. -/
def PulseReading.isBit : PulseReading → Bool
  | .bit _ => true
  | _ => false

/-- The reading of a pulse after which the count of quiet begins again in UNSYNCED (R154): neither OPEN, HALT nor STUCK. -/
def PulseReading.countsAgain : PulseReading → Bool
  | .openSymbol => false
  | .halt => false
  | .stuck => false
  | _ => true

/-- A dominant edge (R151, R157, R167, R177): it leaves IDLE, and it cuts a REST short. In the roll window the slot reports
carry the edges (R150). A sender that waits for its pulse tests where the edge falls (R172). -/
def State.dominantEdge (s : State) : State :=
  if s.lif.line = .busy .roll then s
  else
    let s1 := s.stretchPassed 0
    if s.lif.line = .busy .rest then s1.cutRoll else s1.leaveIdle

/-- LINE_DOMINANT: a dominant edge leaves IDLE (R157, R167). In the other states it is the edge that R145 gives the Frame
Engine (log entry 2). -/
def execLineDominant (s : State) : Result := live State.dominantEdge s

/-- OPEN: a pulse of OPEN length ends (R148, R162). Inside a frame it is damage. -/
def execOpenPulse (pulse : Stretch) (s : State) : Result :=
  live (fun s =>
    match s.lif.pulseRead (· == .openSymbol) pulse with
    | some len => s.pulseEnded none len
    | none => s) s

/-- DATA_BIT: a pulse of BIT0 or BIT1 length ends (R148, R149, R162). -/
def execDataBit (gap pulse : Stretch) (s : State) : Result :=
  live (fun s =>
    match Stretch.seen gap, s.lif.pulseRead PulseReading.isBit pulse with
    | some g, some len => s.pulseEnded (some g) len
    | _, _ => s) s

/-- HALT: a pulse of HALT length ends (R153). -/
def execHalt (pulse : Stretch) (s : State) : Result :=
  live (fun s =>
    match s.lif.pulseRead (· == .halt) pulse with
    | some len => s.pulseEnded none len
    | none => s) s

/-- HALT_REST_END: the halt-rest completes, recessive throughout, and the line is IDLE (R153). -/
def execHaltRestEnd (s : State) : Result :=
  live (fun s =>
    if s.lif.line = .busy .haltRest ∧ s.lif.low = false then (s.onLif (Lif.lastingTo 240)).lineIdle else s) s

/-- DAMAGE: a pulse, or a recessive stretch inside a frame, that has no place in its phase (R152). -/
def execDamage (cause : DamageCause) (s : State) : Result :=
  live (fun s =>
    match cause with
    | .pulse gap pulse =>
      match Stretch.seen gap, Stretch.seen pulse with
      | some g, some len => if readsDamage s.lif.line g len then s.pulseEnded (some g) len else s
      | _, _ => s
    | .stretch gap =>
      match Stretch.seen gap with
      | some g => if s.lif.line = .busy .frame ∧ isGapDamage g then s.gapDamaged g else s
      | none => s) s

/-- SYNC_QUIET: 48Q of recessive in UNSYNCED (R154). -/
def execSyncQuiet (s : State) : Result :=
  live (fun s => if s.lif.line = .unsynced ∧ s.lif.low = false then s.quietSynced else s) s

/-- QUIET_COUNT_RESET: a pulse that neither synchronises nor clears the line ends in UNSYNCED or STUCK (R154, R156). In STUCK
a pulse of any length does so, the one that began the episode among them. -/
def execQuietCountReset (pulse : Stretch) (s : State) : Result :=
  live (fun s =>
    match s.lif.line, s.lif.pulseLength pulse with
    | .unsynced, some len => if (readPulse len).countsAgain then s.pulseEnded none len else s
    | .stuck, some len => s.pulseEnded none len
    | _, _ => s) s

/-- LINE_STUCK: 40Q of continuous dominant (R155). In STUCK it stays in the same episode (R156). -/
def execLineStuck (s : State) : Result :=
  live (fun s => if s.lif.line = .stuck then s.onLif (Lif.dominantFor 1600) else s.stuckSeen) s

/-- LINE_CLEAR: 48Q of continuous recessive in STUCK (R156). No other row reports the edge that ends the 40Q stretch, so the
level is not asked for (log entry 3). -/
def execLineClear (s : State) : Result :=
  live (fun s => if s.lif.line = .stuck then s.stuckCleared else s) s

end Sys2Proof.Machine
end

