-- ==== Sys2Proof/Machine/ResetCommands.lean ====
section
/-! DEFINITION. The commands of the RESETN pin (R140, R141). -/

namespace Sys2Proof.Machine

/-- PIN_RESET_ASSERT: RESETN falls and the part is held in reset (R141). -/
def execPinResetAssert (s : State) : Result := .next s.holdReset

/-- PIN_RESET_RELEASE: RESETN rises, the straps are sampled and every block takes its reset values (R140, R141). With
RESETN HIGH already there is no release, and nothing changes. -/
def execPinResetRelease (straps : Straps) (lrxLow : Bool) (s : State) : Result :=
  .next (if s.pins.resetLow then s.pinReset straps.station straps.quantum lrxLow else s)

end Sys2Proof.Machine
end

