-- ==== Sys2Proof/Machine/RollCommands.lean ====
section
/-! DEFINITION. The commands of the roll window and the REST (R150, R151). -/

namespace Sys2Proof.Machine

/-- OWN_SLOT_DRIVE: the own slot begins, and it is driven for its first 1Q when its assertion was requested before (R144,
R150, R176). Once the own slot has begun it is not driven, nor when a pulse that reached 10Q has ended the window before
it. -/
def execOwnSlotDrive (s : State) (first : Stretch := []) (later : List Stretch := []) : Result :=
  live (fun s =>
    match s.lif.toOwnSlot s.self s.fe.slots.length, stretchLengths first later with
    | some t, some runs =>
      if s.lif.line = .busy .roll ∧ s.fe.slotRequest ∧ runs.sum = s.lif.sinceReport + t ∧ s.lif.windowOpen runs ∧
          (s.lif.pass t).drive = none then
        (s.onFe fun f => { f with slotRequest := false }).onLif fun l => (l.atOwnSlot t runs).drives .slot
      else s
    | _, _ => s) s

/-- SLOT_READ: the next slot of the roll window is reported (R150), when the stretches of the filtered level end where its
report is due, and no pulse that reached 10Q has ended the window. -/
def execSlotRead (first : Stretch) (later : List Stretch) (s : State) : Result :=
  live (fun s =>
    let k := s.fe.slots.length
    match (stretchLengths first later).bind (slotReport k s.lif.slotAt s.lif.slotHeld s.lif.slotSpoilt) with
    | some r => if s.lif.line = .busy .roll ∧ s.lif.reachedHalt = false then s.slotEnded k r else s
    | none => s) s

/-- REST_END: the REST completes, recessive throughout; the roll is handed over and the line is IDLE (R151, R168, R177). -/
def execRestEnd (s : State) : Result :=
  live (fun s =>
    if s.lif.line = .busy .rest ∧ s.lif.low = false then
      ((s.onLif Lif.restOver).handRoll (rollOf s.fe.slots)).lineIdle
    else s) s

end Sys2Proof.Machine
end

