-- ==== Sys2Proof/Machine/TimerCommands.lean ====
section
/-! DEFINITION. The commands of the three timers, and the passing of one quantum in which no command comes. -/

namespace Sys2Proof.Machine

/-- YIELD_LAPSE: the yield timer has run 6Q with the hold set (R167). -/
def execYieldLapse (s : State) : Result :=
  live (fun s => if s.lif.line = .idle ∧ s.fe.hold ∧ s.fe.yieldTimer.isSome then s.yieldLapsed else s) s

/-- WAIT_PROBE_RUN_OUT: the wait-probe timer has reached its limit (R50). -/
def execWaitProbeRunOut (s : State) : Result :=
  live (fun s => if s.tc.waitTimer.isSome then s.waitRunOut else s) s

/-- COPY_TIMER_EXPIRY: the copy timer has run 4096Q without restart (R92). -/
def execCopyTimerExpiry (s : State) : Result :=
  live (fun s => if s.cu.copyTimer.isSome then s.copyFailure .timeout else s) s

/-! ### One quantum without a command (R42, R49, R92, R144, R154 to R156, R167) -/

/-- The yield interval in quanta (R167). -/
def yieldQuanta : Nat := 6

/-- The quiet that synchronises or clears the line, in fortieths of Q (R154, R156). -/
def quietLength : Nat := 1920

/-- The dominant stretch that is STUCK, in fortieths of Q (R155). -/
def stuckLength : Nat := 1600

/-- The copy timer's limit in quanta (R92). -/
def copyQuanta : Nat := 4096

/-- Every running timer advances by one quantum, the level on the line has lasted a quantum longer, and a drive of LTX comes
a quantum nearer to its end (R144, R147). With LRX recessive a sender that waits for its pulse may find its fault in it
(R172). -/
def State.countQuantum (s : State) : State :=
  (((s.quietPassed 40).onFe fun f =>
    { f with yieldTimer := f.yieldTimer.map (· + 1) }).onTc fun t =>
    { t with waitTimer := t.waitTimer.map (· + 1) }).onCu fun c => { c with copyTimer := c.copyTimer.map (· + 1) }

/-- A count of the line has come to its end: 40Q dominant in any state but STUCK, the yield interval in IDLE, or 48Q recessive
in UNSYNCED or STUCK. -/
def State.lineDue (s : State) : Bool :=
  if s.lif.low then s.lif.line != .stuck && stuckLength ≤ s.lif.lasted
  else
    match s.lif.line with
    | .idle => s.fe.hold && s.fe.yieldTimer.any (yieldQuanta ≤ ·)
    | .unsynced => quietLength ≤ s.lif.lasted
    | .stuck => quietLength ≤ s.lif.lasted
    | _ => false

/-- What that end brings about (R154 to R156, R167). -/
def State.fireLine (s : State) : State :=
  if s.lineDue then
    if s.lif.low then s.stuckSeen
    else
      match s.lif.line with
      | .idle => s.yieldLapsed
      | .unsynced => s.quietSynced
      | .stuck => s.stuckCleared
      | _ => s
  else s

/-- The wait-probe timer has reached its limit (R49). -/
def State.waitDue (s : State) : Bool := s.tc.waitTimer.any (s.waitQuanta ≤ ·)

/-- The copy timer has reached its limit (R92). -/
def State.copyDue (s : State) : Bool := s.cu.copyTimer.any (copyQuanta ≤ ·)

/-- What the expiry of the wait-probe timer or of the copy timer brings about (R50, R92). -/
def State.fireTimer (s : State) : State :=
  if s.waitDue then s.waitRunOut else if s.copyDue then s.copyFailure .timeout else s

/-- One quantum passes in which no command comes. Where a count of the line and a timer end together, which of
the two is taken first is a free choice (R50, R92). -/
def State.tick (s : State) : State :=
  if s.pins.resetLow then s
  else
    let s1 := s.countQuantum
    if s1.lineDue && (s1.waitDue || s1.copyDue) then
      let s2 := { s1 with freeUsed := s1.freeUsed + 1 }
      if Config.freeChoice s1.freeUsed then s2.fireLine.fireTimer else s2.fireTimer.fireLine
    else s1.fireLine.fireTimer

end Sys2Proof.Machine
end

