-- ==== Sys2Proof/Machine/Dispatch.lean ====
section
/-! DEFINITION. The dispatch of a command to its meaning, one arm for each row of spec/opcode_table.json. -/

namespace Sys2Proof.Machine

def exec (i : Instr) (s : State) : Host.Outcome State Fault Refusal :=
  match i with
  | .pinResetAssert => Sys2Proof.Machine.execPinResetAssert s
  | .pinResetRelease straps lrxLow => Sys2Proof.Machine.execPinResetRelease straps lrxLow s
  | .status => Sys2Proof.Machine.execStatus s
  | .statusReplyEnd => Sys2Proof.Machine.execStatusReplyEnd s
  | .configure limit options => Sys2Proof.Machine.execConfigure limit options s
  | .join => Sys2Proof.Machine.execJoin s
  | .submit kind tag zone mode => Sys2Proof.Machine.execSubmit kind tag zone mode s
  | .withdraw tag => Sys2Proof.Machine.execWithdraw tag s
  | .fetch => Sys2Proof.Machine.execFetch s
  | .fetchReplyEnd => Sys2Proof.Machine.execFetchReplyEnd s
  | .readZone zone => Sys2Proof.Machine.execReadZone zone s
  | .restart => Sys2Proof.Machine.execRestart s
  | .badCommand code => Sys2Proof.Machine.execBadCommand code s
  | .transactionEnd lrxLow => Sys2Proof.Machine.execTransactionEnd s lrxLow
  | .lineDominant => Sys2Proof.Machine.execLineDominant s
  | .openPulse pulse => Sys2Proof.Machine.execOpenPulse pulse s
  | .frameClose => Sys2Proof.Machine.execFrameClose s
  | .ownSlotDrive first later => Sys2Proof.Machine.execOwnSlotDrive s first later
  | .slotRead first later => Sys2Proof.Machine.execSlotRead first later s
  | .restEnd => Sys2Proof.Machine.execRestEnd s
  | .yieldLapse => Sys2Proof.Machine.execYieldLapse s
  | .frameTake => Sys2Proof.Machine.execFrameTake s
  | .arbitrationLost => Sys2Proof.Machine.execArbitrationLost s
  | .bitFault form => Sys2Proof.Machine.execBitFault form s
  | .halt pulse => Sys2Proof.Machine.execHalt pulse s
  | .haltRestEnd => Sys2Proof.Machine.execHaltRestEnd s
  | .damage cause => Sys2Proof.Machine.execDamage cause s
  | .syncQuiet => Sys2Proof.Machine.execSyncQuiet s
  | .lineStuck => Sys2Proof.Machine.execLineStuck s
  | .lineClear => Sys2Proof.Machine.execLineClear s
  | .waitProbeRunOut => Sys2Proof.Machine.execWaitProbeRunOut s
  | .copyTimerExpiry => Sys2Proof.Machine.execCopyTimerExpiry s
  | .dataBit gap pulse => Sys2Proof.Machine.execDataBit gap pulse s
  | .bitDrive => Sys2Proof.Machine.execBitDrive s
  | .quietCountReset pulse => Sys2Proof.Machine.execQuietCountReset pulse s
  | .transactionOpen => Sys2Proof.Machine.execTransactionOpen s
  | .sckRisingEdge sdi => Sys2Proof.Machine.execSckRisingEdge sdi s

end Sys2Proof.Machine
end

