-- ==== Sys2Proof/Safety.lean ====
section
/-! DEFINITION. The laws that the manual says hold at every point, as predicates of a state, and the words in which the
statements about single commands are put. Each law is written from its rule, not from the code that keeps it. -/

namespace Sys2Proof.Machine

/-! ### The laws -/

/-- The law of R135 and R138: at most 32 notices wait, the overflow count stops at 255, and the overflow flag is set
exactly while the count is not 0. -/
abbrev State.noticeLaw (s : State) : Prop :=
  s.hp.notices.length ≤ 32 ∧ s.hp.overflowCount ≤ 255 ∧ (s.hp.overflow = true ↔ s.hp.overflowCount ≠ 0)

/-- The waiting entries in use over all zones (R4). -/
def Ztu.inUse (t : Ztu) : Nat := ((List.finRange 64).map fun z => (t.zone z).queue.length).sum

/-- The law of R4: the entries in use and the free count make 96. -/
abbrev State.poolLaw (s : State) : Prop := s.ztu.inUse + s.ztu.free = 96

/-- The law of R1 in one record: no station waits twice, and no holder waits. -/
abbrev ZoneRec.apart (r : ZoneRec) : Prop :=
  (r.queue.map fun w => w.station).Nodup ∧ ∀ w ∈ r.queue, StationSet.has r.holders w.station = false

/-- The law of R2 in one record: a FREE zone has no holder and no queue, an EXCLUSIVE one exactly one holder, a SHARED
one at least one holder and a queue that is empty or begins with an EXCLUSIVE entry. -/
abbrev ZoneRec.stateLaw (r : ZoneRec) : Prop :=
  match r.state with
  | .free => r.holders = 0 ∧ r.queue = []
  | .exclusive => ∃ k : Station, r.holders = StationSet.one k
  | .shared => r.holders ≠ 0 ∧ (match r.queue with
      | [] => True
      | w :: _ => w.mode = .exclusive)

/-- The law of R11 in one record: every holder and every waiting station is in the roster. -/
abbrev ZoneRec.known (roster : StationSet) (r : ZoneRec) : Prop :=
  (∀ k : Station, StationSet.has r.holders k = true → StationSet.has roster k = true) ∧
    ∀ w ∈ r.queue, StationSet.has roster w.station = true

/-- The laws of R1, R2 and R11 in every zone record. -/
abbrev State.tableLaw (s : State) : Prop :=
  ∀ z : Zone, (s.ztu.zone z).apart ∧ (s.ztu.zone z).stateLaw ∧ (s.ztu.zone z).known s.tc.roster

/-- The law of R51: out of step, every zone is FREE, the roster empty, the turn 0 and both records absent. -/
abbrev State.outOfStepLaw (s : State) : Prop :=
  s.tc.state.inStep = false →
    (∀ z : Zone, s.ztu.zone z = { state := .free, holders := 0, queue := [] }) ∧ s.tc.roster = 0 ∧ s.tc.turn = 0 ∧
      s.tc.lastApplied = none ∧ s.tc.closure = none

/-- The law of R98, with the tries of R108: at most 8 requests with distinct tags, at most one on the line, a LEAVE
only in the last place, and no request kept with 8 tries. -/
abbrev State.requestLaw (s : State) : Prop :=
  s.ru.queue.length ≤ 8 ∧ (s.ru.queue.map fun q => q.tag).Nodup ∧
    (s.ru.queue.filter fun q => q.onLine).length ≤ 1 ∧ (∀ q ∈ s.ru.queue.dropLast, q.op ≠ .leave) ∧
    ∀ q ∈ s.ru.queue, q.tries < 8

/-- The law of R144 with Table 7.2-1: a drive has time left and no more than its symbol's length, and it is one of the
station's own frame in transmission, still without a fault, or its own HALT, or, in the roll window, the own slot, which is
driven from its start on and in its first quantum alone. -/
abbrev State.driveLaw (s : State) : Prop :=
  match s.lif.drive with
  | none => True
  | some d =>
    0 < d.left ∧
    match d.symbol with
    | .slot =>
      let begins : Int := 80 * ((s.hp.station.val : Int) - s.fe.slots.length)
      let now : Int := s.lif.slotAt + s.lif.sinceReport
      s.lif.line = .busy .roll ∧ s.fe.slots.length ≤ s.hp.station.val ∧ begins ≤ now ∧ now + d.left ≤ begins + 40
    | .haltSymbol => d.left ≤ 480
    | .openSymbol => d.left ≤ 200 ∧ (s.fe.tx.any fun a => !a.faulted) = true
    | .bit b => d.left ≤ (if b then 80 else 40) ∧ (s.fe.tx.any fun a => !a.faulted) = true

/-- The bounds of Table 4.1-1: at most 24 log entries, and the own station in neither the waiting set nor the stream
set. -/
abbrev State.copyLaw (s : State) : Prop :=
  s.cu.log.length ≤ 24 ∧ StationSet.has s.cu.waiting s.hp.station = false ∧
    StationSet.has s.cu.streamSet s.hp.station = false

/-- All the laws together. -/
structure State.Lawful (s : State) : Prop where
  notices : s.noticeLaw
  pool : s.poolLaw
  table : s.tableLaw
  outOfStep : s.outOfStepLaw
  requests : s.requestLaw
  drive : s.driveLaw
  copy : s.copyLaw

/-! ### The words of the statements -/

/-- The part is out of reset, and a transaction is open in which no command has been taken and whose SDI bits so far
are the first of the command's bits (R123, R124, R141). -/
abbrev State.readyFor (s : State) (c : HostCmd) : Prop :=
  s.pins.resetLow = false ∧
    match s.hp.txn with
    | none => False
    | some t =>
      t.taken = none ∧ t.sampled.length < (bitsOf c.bytes).length ∧
        t.sampled = (bitsOf c.bytes).take t.sampled.length

/-- The state with the command recorded as taken and its reply fixed, no reply bit shifted out yet (R125). -/
def State.answered (s : State) (c : HostCmd) (reply : List Byte) (reported : Bool) : State :=
  { s with
    hp := { s.hp with
      txn := some
        { sampled := bitsOf c.bytes
          taken := some { cmd := c, reply := reply, shifted := 0, reported := reported, discards := 0 } } } }

/-- The operand bytes kind, zone and mode of a SUBMIT spell this request: an operand that the kind does not use may
have any value (R195). -/
abbrev ReqOp.spelt (op : ReqOp) (kind zone mode : Byte) : Prop :=
  match op with
  | .claim z m => kind = 0x01#8 ∧ zone.toNat = z.val ∧ mode = m.byte
  | .release z => kind = 0x02#8 ∧ zone.toNat = z.val
  | .touch => kind = 0x03#8
  | .leave => kind = 0x05#8

/-- The zone is busy (R101): the newest queued request that names it is a CLAIM, or none names it and its ticket is not
NONE. -/
abbrev Ru.zoneBusy (r : Ru) (z : Zone) : Prop :=
  match (r.queue.filter fun q => q.op.zone == some z).getLast? with
  | some q => q.op.kind = .claim
  | none => r.ticket z ≠ .none

/-- No closure is pending: the closure record is absent or closed (R31). -/
abbrev State.noClosure (s : State) : Prop :=
  match s.tc.closure with
  | none => True
  | some c => c.closed = true

/-- The station is in step (R51). -/
abbrev State.inStep (s : State) : Prop :=
  s.tc.state = .joining ∨ s.tc.state = .member ∨ s.tc.state = .leaving

/-- A frame of another station stands complete in reception, and its CLOSE accepts it as `f` (R162, R163). -/
abbrev State.receives (s : State) (f : Frame) : Prop :=
  s.pins.resetLow = false ∧ s.lif.line = .busy .frame ∧ s.lif.low = false ∧ s.fe.tx = none ∧
    match s.fe.rx with
    | none => False
    | some r => r.mark = false ∧ acceptFrame r.bits r.crc = some f

/-- The frame in transmission has been received back whole, unfaulted and not withdrawn, and its CLOSE accepts it as `f`
(R162, R163, R166). -/
abbrev State.receivesOwn (s : State) (a : Attempt) (f : Frame) : Prop :=
  s.pins.resetLow = false ∧ s.lif.line = .busy .frame ∧ s.lif.low = false ∧ s.fe.tx = some a ∧ a.faulted = false ∧
    a.withdrawn = false ∧
    match s.fe.rx with
    | none => False
    | some r => r.mark = true ∧ a.bits.length ≤ r.bits.length ∧ acceptFrame r.bits r.crc = some f

/-- The Line Interface `t` fortieths of Q later at the same level: a drive under way has so much less to go, and the last
report of a roll window lies so much further back (R144, R147, R150). -/
def Lif.later (t : Nat) (l : Lif) : Lif :=
  { l with
    lasted := l.lasted + t
    sinceReport := l.sinceReport + t
    drive :=
      match l.drive with
      | some d => if t < d.left then some { d with left := d.left - t } else none
      | none => none }

/-- The line has been dominant for `n` by now; what was known of the pulse before counts as part of it (R145, R148). -/
def Lif.dominantTo (n : Nat) (l : Lif) : Lif :=
  { l.later (if l.low then n - l.lasted else n) with low := true, lasted := if l.low then max l.lasted n else n }

/-- A pulse of length `n` has ended, and the line is recessive from now on (R148, R154). -/
def Lif.heard (n : Nat) (l : Lif) : Lif := { l.dominantTo n with low := false, lasted := 0 }

/-- A recessive stretch of `g` has ended in a dominant edge, unless that edge was reported before (R149). -/
def Lif.gapHeard (g : Nat) (l : Lif) : Lif := if l.low then l else { l.later (g - l.lasted) with low := true, lasted := 0 }

/-- The own HALT is asked for `t` fortieths of Q later, the level the same up to there (R147, R173). -/
def Lif.haltAfter (t : Nat) (l : Lif) : Lif := { l.later t with drive := some { symbol := .haltSymbol, left := 480 } }

/-- Of the drives the own HALT alone goes on (R147, R173). -/
def Lif.ownHalt (l : Lif) : Lif :=
  { l with
    drive :=
      match l.drive with
      | some d => if d.symbol = .haltSymbol then some d else none
      | none => none }

/-- The Line Interface and the Frame Engine at the CLOSE, 3.5Q after the last pulse, before the frame is handled (R149, R163):
the roll origin lies 0.5Q later, what is known to have passed since counts towards it, and nothing is in reception. -/
def State.atClose (s : State) : State :=
  { s with
    lif :=
      { (s.lif.later (140 - s.lif.lasted)).ownHalt with
        line := .busy .roll, slotAt := -20, sinceReport := s.lif.lasted - 140, slotHeld := none, slotSpoilt := false }
    fe := { s.fe with rx := none, rollUse := .none, slots := [], slotRequest := false } }

/-- The sender has been asked for the symbol that its next pulse is compared with: the OPEN by the take, a bit by its
BIT_DRIVE (R144, R147). -/
abbrev State.askedFor (s : State) (a : Attempt) : Prop := ∀ r, s.fe.rx = some r → r.bits.length < a.driven

/-- LRX is recessive, and of a drive of `x` no more than `t` fortieths of Q are left (R147). -/
abbrev State.driveOver (s : State) (x : Symbol) (t : Nat) : Prop :=
  s.lif.low = false ∧ ∀ left, s.lif.drive = some { symbol := x, left := left } → left ≤ t

/-- The pulse that begins on LRX `t` fortieths of Q from now, or stands there already, starts within the sender's own drive of
`x` (R172). -/
abbrev State.startsWithin (s : State) (a : Attempt) (x : Symbol) (t : Nat) : Prop := s.askedFor a ∧ ¬ s.driveOver x t

/-- The sender's drive of `x` in its frame runs out on a recessive line within `t` fortieths of Q, no pulse begun (R172). -/
abbrev State.runsOut (s : State) (a : Attempt) (x : Symbol) (t : Nat) : Prop :=
  (s.lif.line = .busy .frame ∨ s.lif.line = .busy .pulse) ∧ s.askedFor a ∧ s.driveOver x t

/-- The next pulse is compared with `x`: the OPEN until it has been read, then the bit at the place of the next to be received
(R172). -/
abbrev State.compares (s : State) (a : Attempt) (x : Symbol) : Prop :=
  match s.fe.rx with
  | none => s.lif.line = .busy .pulse ∧ x = .openSymbol
  | some r => ∃ b, a.bits[r.bits.length]? = some b ∧ x = .bit b

/-- The attempt with the fault of a pulse that did not start within the own drive (R172). -/
def Attempt.missing (a : Attempt) : Attempt := { a with faulted := true, missed := true }

/-- The notices of a list posted in order (R136). -/
def Hp.posts (h : Hp) (ns : List Notice) : Hp := ns.foldl (fun h n => h.post n) h

/-- The LOST notices that end the tickets not NONE, in ascending zone order (R115). -/
def Ru.lostNotices (r : Ru) (turn : Turn) (why : Reason) : List Notice :=
  (List.finRange 64).filterMap fun z =>
    match r.ticket z with
    | .none => none
    | .waiting tag _ => some { kind := .lost, tag := some tag, zone := some z, turn := some turn, reason := some why }
    | .holding tag _ => some { kind := .lost, tag := some tag, zone := some z, turn := some turn, reason := some why }

/-- The CANCELLED notices of the queued requests, oldest first (R115, R116). -/
def Ru.cancelledNotices (r : Ru) (why : Reason) : List Notice :=
  r.queue.map fun q =>
    { kind := .cancelled, tag := some q.tag, request := some q.op.kind, zone := q.op.zone, reason := some why }

/-- The bytes of a command spell a host command of Table 9.4-2, or one byte that is no command code (R124, R192). -/
abbrev HostCmd.named (c : HostCmd) : Prop :=
  match c with
  | .bad code => code ∉ [0x10#8, 0x11#8, 0x20#8, 0x30#8, 0x31#8, 0x40#8, 0x41#8, 0x5A#8]
  | _ => True

/-- The command of the block that takes a host command. -/
def HostCmd.instr : HostCmd → Instr
  | .status => .status
  | .configure limit options => .configure limit options
  | .join => .join
  | .submit kind tag zone mode => .submit kind tag zone mode
  | .withdraw tag => .withdraw tag
  | .fetch => .fetch
  | .readZone zone => .readZone zone
  | .restart => .restart
  | .bad code => .badCommand code

/-- `t` is `s` after a lag event for the reason `why`, with the notices `before` posted first and `turn` in its notices:
LAGGED, the LOST notices in ascending zone order and the CANCELLED notices oldest first (R65, R71, R115). Nothing of the
station's own is on the line in `s`. -/
abbrev State.lagsTo (s : State) (before : List Notice) (turn : Turn) (why : LagReason) (t : State) : Prop :=
  t.tc =
    { state := if s.hp.autoRejoin then .hailing else .offline, turn := 0, lastApplied := none, roster := 0,
      closure := none, waitTimer := none } ∧
  (∀ z : Zone, t.ztu.zone z = { state := .free, holders := 0, queue := [] } ∧ t.ru.ticket z = .none) ∧
  t.ztu.free = 96 ∧
  t.ru.queue = [] ∧ t.ru.touchFlag = false ∧ t.ru.touchOnLine = false ∧ t.ru.touchTries = 0 ∧
  t.hp = s.hp.posts
    (before ++ [{ kind := .lagged, turn := some turn, reason := some (.lagged why) }] ++ s.ru.lostNotices turn .lag ++
      s.ru.cancelledNotices .lag) ∧
  t.cu =
    { waiting := 0, streamNo := s.cu.streamNo, phase := .idle, streamSet := 0, partIndex := 0, partCount := 0,
      repNo := 0, image := none, log := [], logging := false, awaited := none, stream := none, build := none,
      copyTimer := none } ∧
  t.fe =
    { s.fe with rept := none, join := none, hail := if s.hp.autoRejoin then some 0 else s.fe.hail, copy := none } ∧
  t.lif = s.lif ∧ t.pins = s.pins ∧ t.pending = s.pending

/-- `t` is `s` after a copy failure for the reason `why`, with the notices `before` posted first (R97). -/
abbrev State.restartsTo (s : State) (before : List Notice) (why : CopyReason) (t : State) : Prop :=
  t.hp = s.hp.posts
    (before ++ [{ kind := .copyRestart, station := s.cu.awaited, reason := some (.copy why) }]) ∧
  t.cu =
    { s.cu with log := [], logging := false, awaited := none, stream := none, build := none, copyTimer := none } ∧
  (∀ z : Zone, t.ztu.zone z = { state := .free, holders := 0, queue := [] }) ∧ t.ztu.free = 96 ∧
  t.tc = { s.tc with state := .hailing, turn := 0, lastApplied := none, roster := 0, closure := none } ∧
  t.fe = { s.fe with hail := some 0, join := none } ∧ t.ru = s.ru ∧ t.lif = s.lif ∧ t.pins = s.pins

/-- `t` is `s` after the join is abandoned at the eighth try of the frame `k` (R67, R116). That the tries of the internal
TOUCH are cleared with the touch flag is the model's inference (log entry 14). -/
abbrev State.abandonsTo (s : State) (k : FrameKind) (t : State) : Prop :=
  t.hp = s.hp.posts
    (s.ru.cancelledNotices .abandoned ++ [{ kind := .sendFailed, reason := some (.frame k) }]) ∧
  t.cu = { s.cu with log := [], logging := false } ∧
  (∀ z : Zone, t.ztu.zone z = { state := .free, holders := 0, queue := [] }) ∧ t.ztu.free = 96 ∧
  t.tc = { s.tc with state := .offline, turn := 0, lastApplied := none, roster := 0, closure := none } ∧
  t.fe = { s.fe with hail := none, join := none, rept := none } ∧
  t.ru = { s.ru with queue := [], touchFlag := false, touchOnLine := false, touchTries := 0 } ∧
  t.lif = s.lif ∧ t.pins = s.pins

/-- `u` is `t` after a counted try of the frame that the source `src` has pending (R174). At the eighth try the head request
leaves the queue with SEND-FAILED, the internal TOUCH is dropped with SEND-FAILED and the wait-probe timer restarts, the
REPEAT is dropped, the stream is abandoned and a new one begins for the stations that wait, and the join is abandoned (R41,
R67, R81, R107, R108, R121). -/
abbrev State.tried (t : State) (src : Source) (u : State) : Prop :=
  match src with
  | .request =>
    ∀ (q : Request) (behind : List Request), t.ru.queue = q :: behind → q.onLine = true →
      (∀ p ∈ behind, p.onLine = false) →
      (q.tries < 7 →
        u = { t with ru := { t.ru with queue := { q with tries := q.tries + 1, onLine := false } :: behind } }) ∧
      (q.tries = 7 →
        u = { t with
          ru := { t.ru with queue := behind }
          hp := t.hp.post
            { kind := .sendFailed, tag := some q.tag, zone := q.op.zone, reason := some (.frame q.op.kind) } })
  | .touch =>
    (t.ru.touchTries < 7 →
      u = { t with ru := { t.ru with touchOnLine := false, touchTries := t.ru.touchTries + 1 } }) ∧
    (t.ru.touchTries = 7 →
      u = { t with
        ru := { t.ru with touchFlag := false, touchOnLine := false, touchTries := 0 }
        tc := { t.tc with waitTimer := if t.waitCond then some 0 else none }
        hp := t.hp.post { kind := .sendFailed, reason := some (.frame .touch) } })
  | .rept =>
    ∀ p, t.fe.rept = some p →
      u = { t with fe := { t.fe with rept := if p.tries < 7 then some { p with tries := p.tries + 1 } else none } }
  | .copy =>
    ∀ n, t.fe.copy = some n →
      let cleared : Cu :=
        { t.cu with phase := .idle, streamSet := 0, partIndex := 0, partCount := 0, repNo := 0, image := none }
      (n < 7 → u = { t with fe := { t.fe with copy := some (n + 1) } }) ∧
      (n = 7 → t.tc.state ≠ .member ∨ t.cu.waiting = 0 →
        u = { t with fe := { t.fe with copy := none }, cu := cleared }) ∧
      (n = 7 → t.tc.state = .member → t.cu.waiting ≠ 0 →
        u = { t with
          fe := { t.fe with copy := some 0 }
          cu := { cleared with streamNo := t.cu.streamNo + 1, phase := .head } })
  | .hail =>
    ∀ n, t.fe.hail = some n →
      (n < 7 → u = { t with fe := { t.fe with hail := some (n + 1) } }) ∧ (n = 7 → t.abandonsTo .hail u)
  | .join =>
    ∀ n, t.fe.join = some n →
      (n < 7 → u = { t with fe := { t.fe with join := some (n + 1) } }) ∧ (n = 7 → t.abandonsTo .join u)

/-- The zones in which an edit granted the own station's waiting entry, in the order granted (R9). -/
def EditResult.grantedTo (e : EditResult) (self : Station) : List Zone :=
  (e.grants.filter fun g => g.entry.station == self).map fun g => g.zone

/-- Every one of the zones is granted once, and the own ticket waits there (R110, R113). -/
abbrev Ru.waitsIn (r : Ru) (zones : List Zone) : Prop := zones.Nodup ∧ ∀ z ∈ zones, ∃ tag m, r.ticket z = .waiting tag m

/-- In `t` the own tickets of the zones have gone from WAITING to HOLDING, with GRANTED and the turn for each in their order;
the notices `peers` of the same event are posted with them, each set in its own order and the two in either (R44, R72, R113,
R136). -/
abbrev State.grantsIn (s : State) (zones : List Zone) (turn : Turn) (peers : List Notice) (t : State) : Prop :=
  (∀ y : Zone, t.ru.ticket y =
    match s.ru.ticket y with
    | .waiting tag m => if y ∈ zones then .holding tag m else .waiting tag m
    | other => other) ∧
  t.ru.queue = s.ru.queue ∧ t.ru.touchFlag = s.ru.touchFlag ∧ t.ru.touchOnLine = s.ru.touchOnLine ∧
  t.ru.touchTries = s.ru.touchTries ∧
  ∃ ns : List Notice, t.hp = s.hp.posts ns ∧
    (ns.filter fun n => n.kind == .granted) =
      (zones.filterMap fun z =>
        match s.ru.ticket z with
        | .waiting tag _ => some { kind := .granted, tag := some tag, zone := some z, turn := some turn }
        | _ => none) ∧
    (ns.filter fun n => n.kind != .granted) = peers

/-- What the blocks make of an unreadable roll of the window in progress: what they make, in the state `t`, of a REST_END
whose window had a DAMAGED slot (R40, R177). -/
abbrev State.readsUnreadable (s t : State) : Prop :=
  exec .restEnd
      { s with
        lif := { s.lif with line := .busy .rest, low := false }
        fe := { s.fe with slots := [.damaged] } } = .next t

/-- The closure record that the apply of an order frame opens (R34, R38, Table 2.1-1). -/
def Frame.closureOf (f : Frame) (op : OrderOp) (e : EditResult) (own : Bool) : ClosureRecord :=
  { orig := f.orig, turn := f.turn, check := f.check, op := op, expected := if e.foreign then 0 else e.roster,
    lastRoll := none, repSeen := f.repNo, own := own, foreign := e.foreign, closed := false }

end Sys2Proof.Machine
end

