-- ==== Sys2Proof/Certificates/Slice0/Obligations.lean ====
section
/-! DEFINITION. The statements for the provers. OBLIGATIONS.json gives each its number, its tier and the rules it rests
on. -/

open Sys2Proof Sys2Proof.Machine

/-! ### The step, the queue of commands and reset -/

/-- A step carries out the command at the front of the queue with the queue's rest; on an empty queue one quantum
passes with no command, which is the model's choice (log entry 3). -/
def Obligations.StepCarriesOutTheFrontCommand : Prop :=
  (∀ (c : Instr) (rest : List Instr) (s : State),
    step { s with pending := c :: rest } = exec c { s with pending := rest }) ∧
  ∀ s : State, s.pending = [] → step s = .next s.tick

/-- Every command answers a next state, in every state, and leaves the queue of waiting commands as it is. -/
def Obligations.EveryCommandAnswersNext : Prop :=
  ∀ (c : Instr) (s : State), ∃ t, exec c s = .next t ∧ t.pending = s.pending

/-- While RESETN is held LOW only the pins' own commands change anything, and those of CSN change its level alone
(R141, R158). -/
def Obligations.HeldResetIsDeaf : Prop :=
  ∀ (c : Instr) (s : State), s.pins.resetLow = true →
    match c with
    | .pinResetAssert => True
    | .pinResetRelease _ _ => True
    | .transactionOpen => exec c s = .next { s with pins := { resetLow := true, csnLow := true } }
    | .transactionEnd _ => exec c s = .next { s with pins := { resetLow := true, csnLow := false } }
    | _ => exec c s = .next s

/-- The state after reset, block by block (R25, Table 2.1-2, R51, Table 4.1-1, R122, R131, R141, R158, R180). That LRX is
recessive there is the model's choice (log entry 1). -/
def Obligations.ResetValues : Prop :=
  (∀ z : Zone, State.reset.ztu.zone z = { state := .free, holders := 0, queue := [] } ∧
    State.reset.ru.ticket z = .none) ∧
  State.reset.ztu.free = 96 ∧
  State.reset.tc = { state := .offline, turn := 0, lastApplied := none, roster := 0, closure := none,
                     waitTimer := none } ∧
  State.reset.cu = { waiting := 0, streamNo := 0, phase := .idle, streamSet := 0, partIndex := 0, partCount := 0,
                     repNo := 0, image := none, log := [], logging := false, awaited := none, stream := none,
                     build := none, copyTimer := none } ∧
  State.reset.ru.queue = [] ∧ State.reset.ru.touchFlag = false ∧ State.reset.ru.touchOnLine = false ∧
  State.reset.ru.touchTries = 0 ∧
  State.reset.lif = { line := .unsynced, drive := none, low := false, lasted := 0, slotAt := 0, sinceReport := 0,
                      slotHeld := none, slotSpoilt := false } ∧
  State.reset.fe = { rept := none, join := none, hail := none, copy := none, tx := none, rx := none,
                     rollUse := .none, slots := [], slotRequest := false, hold := false, yieldTimer := none } ∧
  State.reset.hp.waitLimit = 16 ∧ State.reset.hp.autoRejoin = true ∧ State.reset.hp.peerNotices = false ∧
  State.reset.hp.notices = [{ kind := .ready, station := some State.reset.hp.station, reason := some .pinReset }] ∧
  State.reset.hp.overflow = false ∧ State.reset.hp.overflowCount = 0 ∧ State.reset.hp.truncated = false ∧
  State.reset.hp.txn = none ∧ State.reset.attn = true ∧ State.reset.ltxLow = false

/-- All the laws hold after reset. -/
def Obligations.ResetIsLawful : Prop := State.reset.Lawful

/-- PIN_RESET_ASSERT: RESETN LOW releases LTX, SDO and ATTN and abandons the transaction. PIN_RESET_RELEASE: the straps
are sampled and every block takes its reset values, with READY alone in the notice queue; the level LRX shows there counts
from there (R140, R141, R145). With RESETN HIGH there is no release, which is the model's choice (log entry 6). -/
def Obligations.PinReset : Prop :=
  (∀ s : State,
    exec .pinResetAssert s =
      .next { s with
        pins := { s.pins with resetLow := true }
        lif := { s.lif with drive := none }
        hp := { s.hp with txn := none } } ∧
    ∀ t, exec .pinResetAssert s = .next t → t.ltxLow = false ∧ t.attn = false ∧ t.sdo = none) ∧
  ∀ (s : State) (sn : Station) (qs : Fin 4) (low : Bool),
    (s.pins.resetLow = true →
      exec (.pinResetRelease { station := sn, quantum := qs } low) s =
        .next { State.reset with
          pending := s.pending
          freeUsed := s.freeUsed
          pins := { resetLow := false, csnLow := s.pins.csnLow }
          lif := { State.reset.lif with low := low }
          hp :=
            { station := sn, quantum := qs, waitLimit := 16, autoRejoin := true, peerNotices := false,
              notices := [{ kind := .ready, station := some sn, reason := some .pinReset }], overflow := false,
              overflowCount := 0, truncated := false, txn := none } }) ∧
    (s.pins.resetLow = false → exec (.pinResetRelease { station := sn, quantum := qs } low) s = .next s)

/-! ### The host port -/

/-- STATUS is taken in every station state and its reply is OK with the 14 data bytes of Table 9.5-1; nothing else
changes (R125, R128, R196). -/
def Obligations.StatusReportsTheState : Prop :=
  ∀ s : State, s.readyFor .status →
    exec .status s =
      .next (s.answered .status
        [0x01#8, s.tc.state.code, BitVec.ofNat 8 s.hp.station.val, BitVec.ofNat 8 s.hp.quantum.val,
          s.tc.turn.extractLsb' 8 8, s.tc.turn.extractLsb' 0 8, s.tc.roster.extractLsb' 8 8,
          s.tc.roster.extractLsb' 0 8, BitVec.ofNat 8 s.ru.queue.length, BitVec.ofNat 8 s.hp.notices.length,
          (if s.hp.overflow then 0x01#8 else 0x00#8) ||| (if s.hp.truncated then 0x02#8 else 0x00#8),
          BitVec.ofNat 8 s.hp.overflowCount, s.lif.line.code, s.hp.waitLimit,
          (if s.hp.autoRejoin then 0x01#8 else 0x00#8) ||| (if s.hp.peerNotices then 0x02#8 else 0x00#8)] false)

/-- CONFIGURE: STATE outside OFFLINE, BAD-OPERAND for an options byte with a bit other than bits 0 and 1, and otherwise
OK with all three values replaced; a refused CONFIGURE changes none (R130, R193, R195). -/
def Obligations.ConfigureInOfflineAlone : Prop :=
  ∀ (s : State) (limit options : Byte), s.readyFor (.configure limit options) →
    (s.tc.state ≠ .offline →
      exec (.configure limit options) s = .next (s.answered (.configure limit options) [0x03#8] false)) ∧
    (s.tc.state = .offline → 4 ≤ options.toNat →
      exec (.configure limit options) s = .next (s.answered (.configure limit options) [0x0F#8] false)) ∧
    (s.tc.state = .offline → options.toNat < 4 →
      exec (.configure limit options) s =
        .next
          (({ s with
              hp := { s.hp with
                waitLimit := limit
                autoRejoin := decide (options.toNat % 2 = 1)
                peerNotices := decide (2 ≤ options.toNat) } } : State).answered
            (.configure limit options) [0x01#8] false))

/-- JOIN: in OFFLINE the reply is OK, the station is HAILING with a HAIL pending with no tries, no JOIN is pending and
the log is empty and off; in any other state the reply is STATE and nothing else changes (R52, R132). -/
def Obligations.JoinLeavesOffline : Prop :=
  ∀ s : State, s.readyFor .join →
    (s.tc.state = .offline → s.fe.tx = none →
      exec .join s =
        .next
          (({ s with
              tc := { s.tc with state := .hailing }
              fe := { s.fe with hail := some 0, join := none }
              cu := { s.cu with log := [], logging := false } } : State).answered .join [0x01#8] false)) ∧
    (s.tc.state ≠ .offline → exec .join s = .next (s.answered .join [0x03#8] false))

/-- SUBMIT accepted: when every check of R100 passes, the reply is OK and the request joins the tail of the queue with
no tries and not on the line (R99, R100, R102). -/
def Obligations.SubmitAppendsTheRequest : Prop :=
  ∀ (s : State) (kind tag zone mode : Byte) (op : ReqOp), s.readyFor (.submit kind tag zone mode) →
    op.spelt kind zone mode →
    s.tc.state ≠ .offline → s.tc.state ≠ .leaving → (∀ q ∈ s.ru.queue, q.op ≠ .leave) →
    (op = .leave → s.tc.state = .member) → (∀ q ∈ s.ru.queue, q.tag ≠ tag) → s.ru.queue.length < 8 →
    (∀ z m, op = .claim z m → ¬ s.ru.zoneBusy z) →
    exec (.submit kind tag zone mode) s =
      .next
        (({ s with
            ru := { s.ru with
              queue := s.ru.queue ++ [{ tag := tag, op := op, tries := 0, onLine := false }] } } : State).answered
          (.submit kind tag zone mode) [0x01#8] false)

/-- SUBMIT refused: the first check of Table 5.2-1 that fails gives the reply code, and nothing but the transaction
changes (R99, R100, R101, R195). -/
def Obligations.SubmitRefusedByTheFirstFailedCheck : Prop :=
  ∀ (s : State) (kind tag zone mode : Byte), s.readyFor (.submit kind tag zone mode) →
    let refused (code : Byte) : Prop :=
      exec (.submit kind tag zone mode) s = .next (s.answered (.submit kind tag zone mode) [code] false)
    let open1 : Prop := s.tc.state ≠ .offline ∧ s.tc.state ≠ .leaving ∧ ∀ q ∈ s.ru.queue, q.op ≠ .leave
    let named : Prop :=
      (kind = 0x01#8 ∧ (mode = 0x01#8 ∨ mode = 0x02#8)) ∨ kind = 0x02#8 ∨ kind = 0x03#8 ∨ kind = 0x05#8
    (¬ open1 → refused 0x03#8) ∧
    (open1 → ¬ named → refused 0x0F#8) ∧
    (open1 → kind = 0x05#8 → s.tc.state ≠ .member → refused 0x03#8) ∧
    (open1 → named → (kind = 0x01#8 ∨ kind = 0x02#8) → 64 ≤ zone.toNat → refused 0x04#8) ∧
    ∀ op : ReqOp, op.spelt kind zone mode → open1 → (op = .leave → s.tc.state = .member) →
      ((∃ q ∈ s.ru.queue, q.tag = tag) → refused 0x05#8) ∧
      ((∀ q ∈ s.ru.queue, q.tag ≠ tag) → 8 ≤ s.ru.queue.length → refused 0x02#8) ∧
      ∀ z m, op = .claim z m → (∀ q ∈ s.ru.queue, q.tag ≠ tag) → s.ru.queue.length < 8 → s.ru.zoneBusy z →
        refused 0x06#8

/-- WITHDRAW: the first queued request with the tag is removed with OK when it is not on the line, answered IN-FLIGHT
and kept when it is, and a tag that no queued request carries is answered UNKNOWN-TAG (R103). -/
def Obligations.WithdrawRemovesWhatIsNotOnTheLine : Prop :=
  ∀ (s : State) (tag : Byte), s.readyFor (.withdraw tag) →
    (∀ (ahead behind : List Request) (q : Request), s.ru.queue = ahead ++ q :: behind → q.tag = tag →
      (∀ p ∈ ahead, p.tag ≠ tag) →
      (q.onLine = false →
        exec (.withdraw tag) s =
          .next
            (({ s with ru := { s.ru with queue := ahead ++ behind } } : State).answered (.withdraw tag) [0x01#8]
              false)) ∧
      (q.onLine = true → exec (.withdraw tag) s = .next (s.answered (.withdraw tag) [0x07#8] false))) ∧
    ((∀ q ∈ s.ru.queue, q.tag ≠ tag) →
      exec (.withdraw tag) s = .next (s.answered (.withdraw tag) [0x08#8] false))

/-- FETCH: EMPTY and eight bytes of FFh on an empty queue; otherwise OK and the record of the oldest notice, which stays in
the queue. The record holds, in order, the kind, the tag, the request kind, the zone, the station, the turn and the reason or
outcome; an absent byte field reads FFh and an absent turn FFFFh (R134, R197, R200, Table 9.5-2). -/
def Obligations.FetchReportsTheOldestNotice : Prop :=
  ∀ s : State, s.readyFor .fetch →
    (s.hp.notices = [] →
      exec .fetch s = .next (s.answered .fetch (0x09#8 :: List.replicate 8 0xFF#8) false)) ∧
    ∀ n rest, s.hp.notices = n :: rest →
      exec .fetch s =
        .next (s.answered .fetch
          [0x01#8, n.kind.code,
            (match n.tag with | some tag => tag | none => 0xFF#8),
            (match n.request with | some k => BitVec.ofNat 8 k.code.toNat | none => 0xFF#8),
            (match n.zone with | some z => BitVec.ofNat 8 z.val | none => 0xFF#8),
            (match n.station with | some k => BitVec.ofNat 8 k.val | none => 0xFF#8),
            (match n.turn with | some turn => turn.extractLsb' 8 8 | none => 0xFF#8),
            (match n.turn with | some turn => turn.extractLsb' 0 8 | none => 0xFF#8),
            (match n.reason with | some why => why.code.getD 0xFF#8 | none => 0xFF#8)] true)

/-- READ-ZONE: OK with the zone record and its ticket in the layout of Table 9.5-5 for a zone below 64, and ZONE with 24
bytes of FFh for any other; nothing else changes (R133, R201). -/
def Obligations.ReadZoneReportsRecordAndTicket : Prop :=
  ∀ (s : State) (zone : Byte), s.readyFor (.readZone zone) →
    (64 ≤ zone.toNat →
      exec (.readZone zone) s =
        .next (s.answered (.readZone zone) (0x04#8 :: List.replicate 24 0xFF#8) false)) ∧
    ∀ z : Zone, z.val = zone.toNat →
      let r := s.ztu.zone z
      exec (.readZone zone) s =
        .next (s.answered (.readZone zone)
          ([0x01#8, zone, (match r.state with | .free => 0x00#8 | .exclusive => 0x01#8 | .shared => 0x02#8),
              r.holders.extractLsb' 8 8, r.holders.extractLsb' 0 8, BitVec.ofNat 8 r.queue.length] ++
            r.queue.map (fun w => BitVec.ofNat 8 (16 * w.station.val + if w.mode = .shared then 1 else 0)) ++
            List.replicate (16 - r.queue.length) 0xFF#8 ++
            (match s.ru.ticket z with
              | .none => [0x00#8, 0xFF#8, 0xFF#8]
              | .waiting tag m => [0x01#8, tag, if m = .shared then 0x02#8 else 0x01#8]
              | .holding tag m => [0x02#8, tag, if m = .shared then 0x02#8 else 0x01#8])) false)

/-- RESTART is answered OK and changes nothing at its take; an unknown command code is answered BAD-COMMAND and changes
nothing (R124, R142, R192). -/
def Obligations.RestartAndBadCommandTakes : Prop :=
  (∀ s : State, s.readyFor .restart → exec .restart s = .next (s.answered .restart [0x01#8] false)) ∧
  ∀ (s : State) (code : Byte), s.readyFor (.bad code) →
    code ∉ [0x10#8, 0x11#8, 0x20#8, 0x30#8, 0x31#8, 0x40#8, 0x41#8, 0x5A#8] →
    exec (.badCommand code) s = .next (s.answered (.bad code) [0x0E#8] false)

/-- STATUS_REPLY_END: the overflow count becomes the number of discards since the take, at most 255, the overflow flag
says whether there was one, and the truncated flag is cleared. FETCH_REPLY_END: the notice that the FETCH reported
leaves the head of the queue, and a FETCH that found the queue empty removes nothing (R129, R134). -/
def Obligations.ReplyEndsTakeEffect : Prop :=
  ∀ (s : State) (t : Txn) (k : Taken), s.pins.resetLow = false → s.hp.txn = some t → t.taken = some k →
    k.shifted < 8 * k.reply.length →
    let out : Option Txn := some { t with taken := some { k with shifted := 8 * k.reply.length } }
    (k.cmd = .status →
      exec .statusReplyEnd s =
        .next { s with
          hp := { s.hp with
            overflow := decide (k.discards ≠ 0)
            overflowCount := min 255 k.discards
            truncated := false
            txn := out } }) ∧
    (k.cmd = .fetch →
      exec .fetchReplyEnd s =
        .next { s with
          hp := { s.hp with
            notices := if k.reported then s.hp.notices.drop 1 else s.hp.notices
            txn := out } })

/-- TRANSACTION_OPEN: a transaction opens with no bit sampled and no command taken (R123). It does so with CSN LOW already
and no transaction held as well, where R141 has the port disregard what follows: that such a command is taken as a falling
edge of CSN is the model's choice (log entry 13). TRANSACTION_END: before the take the command is lost, and the truncated
flag is set when at least one bit was sampled; after it the effect stands, and a RESTART is carried out (R126, R142); the
level that LRX shows there counts as beginning there, whatever was known of it before (R145). -/
def Obligations.TransactionsOpenAndEnd : Prop :=
  (∀ s : State, s.pins.resetLow = false → s.hp.txn = none →
    exec .transactionOpen s =
      .next { s with
        pins := { s.pins with csnLow := true }
        hp := { s.hp with txn := some { sampled := [], taken := none } } }) ∧
  ∀ (s : State) (t : Txn) (lrxLow : Bool), s.pins.resetLow = false → s.hp.txn = some t →
    let ended : State := { s with pins := { s.pins with csnLow := false }, hp := { s.hp with txn := none } }
    (t.taken = none → t.sampled = [] → exec (.transactionEnd lrxLow) s = .next ended) ∧
    (t.taken = none → t.sampled ≠ [] →
      exec (.transactionEnd lrxLow) s = .next { ended with hp := { ended.hp with truncated := true } }) ∧
    (∀ k, t.taken = some k → k.cmd ≠ .restart → exec (.transactionEnd lrxLow) s = .next ended) ∧
    ∀ k, t.taken = some k → k.cmd = .restart →
      exec (.transactionEnd lrxLow) s =
        .next { State.reset with
          pending := s.pending
          freeUsed := s.freeUsed
          pins := ended.pins
          lif := { State.reset.lif with low := lrxLow }
          hp := { s.hp with
            notices := [{ kind := .ready, station := some s.hp.station, reason := some .softReset }]
            overflow := false
            overflowCount := 0
            truncated := false
            txn := none } }

/-- SCK_RISING_EDGE. Before the take the SDI bit is sampled. The bit that completes the bytes of a host command, or of an
unknown command code, gives the same state as the command itself; the bit that completes a byte but no command is sampled
and no more. After the take one more reply bit is shifted out, and the last one ends the reply as STATUS_REPLY_END and
FETCH_REPLY_END do; the end of the reply of any other command changes nothing else. The level on SDO is 0 before the take,
then the reply's bits, then 0 (R123, R124, R129, R134, R191). -/
def Obligations.ClockEdges : Prop :=
  (∀ (s : State) (t : Txn) (b : Bool), s.pins.resetLow = false → s.hp.txn = some t → t.taken = none →
    let sampled : State := { s with hp := { s.hp with txn := some { t with sampled := t.sampled ++ [b] } } }
    ((t.sampled.length + 1) % 8 ≠ 0 → exec (.sckRisingEdge b) s = .next sampled) ∧
    (∀ c : HostCmd, c.named → t.sampled ++ [b] = bitsOf c.bytes → exec (.sckRisingEdge b) s = exec c.instr s) ∧
    ∀ bytes : List Byte, t.sampled ++ [b] = bitsOf bytes → (∀ c : HostCmd, c.named → c.bytes ≠ bytes) →
      exec (.sckRisingEdge b) s = .next sampled) ∧
  (∀ (s : State) (t : Txn) (k : Taken) (b : Bool), s.pins.resetLow = false → s.hp.txn = some t → t.taken = some k →
    (k.shifted + 1 ≠ 8 * k.reply.length →
      exec (.sckRisingEdge b) s =
        .next { s with hp := { s.hp with txn := some { t with taken := some { k with shifted := k.shifted + 1 } } } }) ∧
    (k.shifted + 1 = 8 * k.reply.length → k.cmd = .status →
      exec (.sckRisingEdge b) s = exec .statusReplyEnd s) ∧
    (k.shifted + 1 = 8 * k.reply.length → k.cmd = .fetch → exec (.sckRisingEdge b) s = exec .fetchReplyEnd s) ∧
    (k.shifted + 1 = 8 * k.reply.length → k.cmd ≠ .status → k.cmd ≠ .fetch →
      exec (.sckRisingEdge b) s =
        .next { s with
          hp := { s.hp with txn := some { t with taken := some { k with shifted := 8 * k.reply.length } } } })) ∧
  ∀ (s : State) (t : Txn), s.pins.resetLow = false → s.pins.csnLow = true → s.hp.txn = some t →
    (t.taken = none → s.sdo = some false) ∧
    (∀ (k : Taken) (ahead behind : List Bool) (b : Bool), t.taken = some k → bitsOf k.reply = ahead ++ b :: behind →
      ahead.length = k.shifted → s.sdo = some b) ∧
    ∀ k : Taken, t.taken = some k → 8 * k.reply.length ≤ k.shifted → s.sdo = some false

/-! ### Notices and ATTN -/

/-- ATTN is asserted exactly while RESETN is HIGH and the queue holds a notice or the overflow flag is set (R139). -/
def Obligations.AttentionFollowsQueueAndFlag : Prop :=
  ∀ s : State,
    (s.pins.resetLow = false → (s.attn = true ↔ s.hp.notices ≠ [] ∨ s.hp.overflow = true)) ∧
    (s.pins.resetLow = true → s.attn = false)

/-- A post joins the tail while the queue holds fewer than 32 notices; otherwise it is discarded, the flag is set, the count
advances by one, stopping at 255, and a command under way counts one more discard since its take; nothing else of the Host
Port changes (R129, R136, R138). -/
def Obligations.PostJoinsOrIsCounted : Prop :=
  ∀ (h : Hp) (n : Notice),
    (h.notices.length < 32 → h.post n = { h with notices := h.notices ++ [n] }) ∧
    (32 ≤ h.notices.length →
      let discarded : Hp :=
        { h with overflow := true, overflowCount := if h.overflowCount < 255 then h.overflowCount + 1 else 255 }
      (h.txn = none → h.post n = discarded) ∧
      (∀ t, h.txn = some t → t.taken = none → h.post n = discarded) ∧
      ∀ t k, h.txn = some t → t.taken = some k →
        h.post n = { discarded with txn := some { t with taken := some { k with discards := k.discards + 1 } } })

/-- In every step the notice queue and its flag and count keep their law (R135, R138). -/
def Obligations.EveryStepKeepsTheNoticeLaw : Prop :=
  ∀ s t : State, s.noticeLaw → step s = .next t → t.noticeLaw

/-! ### The line -/

/-- LINE_DOMINANT leaves IDLE for a pulse under classification and stops the yield timer (R157, R167). In the REST it cuts
the roll short, which is handed over as unreadable at once (R151, R177); in the roll window it changes nothing, and in every
other state it starts the count of the dominant level (R145): that the command may come in the other states is the model's
choice (log entries 2 and 6). OPEN starts an empty frame in reception from IDLE, from a pulse under classification, from
UNSYNCED, from the halt-rest and, the roll being cut short, from the REST; the frame is marked as the station's own when its
own OPEN drive was taken for it, also when a bit fault of that OPEN has been found already, whose HALT goes on (R147, R148,
R151, R153, R154, R162, R173, R177). Two points are the model's choices: an OPEN may come in IDLE with no edge reported
before (log entry 10), and a sender whose drive runs out with no pulse begun finds its fault where the drive ends, so an OPEN
that begins after it is marked as another station's (log entry 29). -/
def Obligations.FramesOpen : Prop :=
  (∀ s : State, s.pins.resetLow = false →
    let edge : Lif := s.lif.gapHeard 0
    (s.lif.line = .idle →
      exec .lineDominant s =
        .next { s with
          lif := { edge with line := .busy .pulse }
          fe := { s.fe with yieldTimer := none } }) ∧
    (s.lif.line = .busy .roll → exec .lineDominant s = .next s) ∧
    (s.lif.line = .busy .rest → s.fe.tx = none →
      ∃ t, s.readsUnreadable t ∧
        exec .lineDominant s = .next { t with lif := edge, fe := { t.fe with yieldTimer := s.fe.yieldTimer } }) ∧
    (s.lif.line ≠ .idle → s.lif.line ≠ .busy .roll → s.lif.line ≠ .busy .rest →
      (∀ a x, s.fe.tx = some a → a.faulted = false → s.compares a x → ¬ s.runsOut a x 0) →
      exec .lineDominant s = .next { s with lif := edge })) ∧
  ∀ (s : State) (pulse : Stretch) (len : Nat), s.pins.resetLow = false → Stretch.seen pulse = some len →
    160 ≤ len → len ≤ 240 → s.fe.rx = none →
    (∀ a, s.fe.tx = some a → a.faulted = false → s.lif.line = .busy .pulse →
      s.startsWithin a .openSymbol 0 ∧ 180 ≤ len ∧ len ≤ 220) →
    let lif : Lif := { s.lif.heard len with line := .busy .frame }
    let rx : Reception :=
      { bits := [], crc := 0xFFFF#16
        mark := (s.fe.tx.any fun a => !a.missed) && decide (s.lif.line = .busy .pulse) }
    (s.lif.line = .idle ∨ s.lif.line = .busy .pulse ∨ s.lif.line = .unsynced ∨ s.lif.line = .busy .haltRest →
      exec (.openPulse pulse) s =
        .next { s with
          lif := lif
          fe := { s.fe with
            rx := some rx
            yieldTimer := if s.lif.line = .idle then none else s.fe.yieldTimer } }) ∧
    (s.lif.line = .busy .rest → s.fe.tx = none →
      ∃ t, s.readsUnreadable t ∧
        exec (.openPulse pulse) s =
          .next { t with lif := lif, fe := { t.fe with rx := some rx, yieldTimer := s.fe.yieldTimer } })

/-- DATA_BIT: a pulse of bit length after a separation is appended to the frame in reception, with the check register
over the bytes it covers, as long as a sender whose own bit stands at that place finds it as driven: started within its own
drive, and of its length. A pulse that did not start within the drive of the own bit is a bit fault, and its bit is appended
all the same. BIT_DRIVE: 1Q after the line went recessive the sender drives the bit that stands at the place of the next to
be received, a BIT0 for 1Q and a BIT1 for 2Q, whatever is left of the drive before it; a bit is driven once (R144, R145, R147
to R149, R161, R162, R172). Two points are the model's choices: the fault of a pulse that comes too late is found where the
own drive ends, and where the own bit was not asked for at all a pulse at its place is a fault, found where that pulse begins
(DESIGN CHOICE, log entry 29, with log entry 9). -/
def Obligations.BitsAreReceivedAndDriven : Prop :=
  ∀ (s : State) (r : Reception), s.pins.resetLow = false → s.lif.line = .busy .frame → s.fe.rx = some r →
    (∀ (gap pulse : Stretch) (g len : Nat) (b : Bool), Stretch.seen gap = some g → Stretch.seen pulse = some len →
      20 ≤ g → g ≤ 60 → (if b then 64 ≤ len ∧ len ≤ 104 else 20 ≤ len ∧ len ≤ 56) →
      let read : Fe :=
        { s.fe with
          rx := some
            { bits := r.bits ++ [b], crc := if inCheckedBytes r.bits then crcBit r.crc b else r.crc, mark := r.mark } }
      ((∀ a x, s.fe.tx = some a → a.faulted = false → a.bits[r.bits.length]? = some x →
          s.startsWithin a (.bit x) (g - s.lif.lasted) ∧ x = b ∧ len ≤ 100) →
        exec (.dataBit gap pulse) s = .next { s with lif := (s.lif.gapHeard g).heard len, fe := read }) ∧
      ∀ a x, s.fe.tx = some a → a.faulted = false → a.bits[r.bits.length]? = some x →
        let missed (l : Lif) : State := { s with lif := l.heard len, fe := { read with tx := some a.missing } }
        (r.bits.length < a.driven → s.lif.low = false →
          ∀ left, s.lif.drive = some { symbol := .bit x, left := left } → left ≤ g - s.lif.lasted →
            exec (.dataBit gap pulse) s = .next (missed ((s.lif.haltAfter left).gapHeard g))) ∧
        (a.driven ≤ r.bits.length →
          exec (.dataBit gap pulse) s = .next (missed ((s.lif.gapHeard g).haltAfter 0)))) ∧
    ∀ (a : Attempt) (b : Bool), s.fe.tx = some a → a.faulted = false → a.bits[r.bits.length]? = some b →
      (a.driven ≤ r.bits.length → (if s.lif.low then s.lif.lasted < 40 else s.lif.lasted ≤ 40) →
        exec .bitDrive s =
          .next { s with
            lif := { s.lif.later (if s.lif.low then 0 else 40 - s.lif.lasted) with
              drive := some { symbol := .bit b, left := if b then 80 else 40 } }
            fe := { s.fe with tx := some { a with driven := r.bits.length + 1 } } }) ∧
      (r.bits.length < a.driven → exec .bitDrive s = .next s)

/-- FRAME_CLOSE of a frame that the tests of R163 do not accept: it is discarded, the yield hold is set, the roll window
begins with no slot of the station's own, its origin 4Q after the last pulse, and the roll goes to no block; a FOUNDING
station that was not the sender returns to HAILING with a new HAIL (R58, R163, R164, R167). A CLOSE that comes while the own
frame has bits left ends the frame in reception all the same (R149, R152). That its sender finds a bit fault at the CLOSE,
where the next bit was not asked for, is read from R172 (DEDUCED, log entry 12); where it was, the fault is found where its
drive ended, a point that the model chooses (DESIGN CHOICE, log entry 29). -/
def Obligations.FrameCloseDiscards : Prop :=
  ∀ (s : State) (r : Reception), s.pins.resetLow = false → s.lif.line = .busy .frame → s.lif.low = false →
    s.fe.rx = some r → acceptFrame r.bits r.crc = none →
    let t : State := { s.atClose with fe := { s.atClose.fe with hold := true } }
    ((∀ a, s.fe.tx = some a → a.faulted = true) → s.tc.state ≠ .founding ∨ r.mark = true →
      exec .frameClose s = .next t) ∧
    (s.fe.tx = none → s.tc.state = .founding → r.mark = false →
      exec .frameClose s =
        .next { t with
          tc := { t.tc with state := .hailing }
          fe := { t.fe with hail := some 0, join := none }
          cu := { t.cu with log := [], logging := false } }) ∧
    ∀ (a : Attempt) (x : Bool), s.fe.tx = some a → a.faulted = false → r.mark = true → a.bits[r.bits.length]? = some x →
      let halts (b : Attempt) (left : Nat) : State :=
        { t with
          lif := { t.lif with drive := some { symbol := .haltSymbol, left := left } }
          fe := { t.fe with tx := some b } }
      (a.driven ≤ r.bits.length → exec .frameClose s = .next (halts { a with faulted := true } 480)) ∧
      (r.bits.length < a.driven → ∀ left, s.lif.drive = some { symbol := .bit x, left := left } →
        (left ≤ 140 - s.lif.lasted →
          exec .frameClose s = .next (halts a.missing (480 - (140 - s.lif.lasted - left)))) ∧
        (140 - s.lif.lasted < left → exec .frameClose s = .next (halts { a with faulted := true } 480)))

/-- FRAME_CLOSE of another station's order-class frame at the station's turn, in step and with no closure pending: the edit
is made, T advances by one, the last-applied record names the frame, the closure record opens pending with the roster after
the edit (or {} for a foreign frame) as its expected set, and the own slot is asserted in MEMBER and LEAVING unless the
frame is foreign. The edit here grants nothing to the own station. An edit of a RELEASE, a LEAVE or a readmission that
grants a MEMBER its waiting entries moves each ticket from WAITING to HOLDING and posts GRANTED with the turn of the frame
for each, beside the peer notice of the event (R9, R32 to R34, R38, R39, R44, R49, R72, R113, R118, R167). A frame with the
own number that the station did not send: a JOIN or LEAVE is not applied, and any other kind is applied in MEMBER; in both
cases DUPLICATE-SUSPECT is posted and a lag event with the reason SELF-EVICTED follows (R68, R117). -/
def Obligations.OrderFrameIsApplied : Prop :=
  (∀ (s : State) (f : Frame) (op : OrderOp), s.receives f → f.payload = .order op → s.inStep → s.noClosure →
     f.turn = s.tc.turn → f.orig ≠ s.self →
     let e := s.ztu.apply s.tc.roster f.orig s.self op
     let peers : List Notice :=
       if s.hp.peerNotices then
         match op with
         | .join => [{ kind := .peerJoined, station := some f.orig, turn := some f.turn }]
         | .leave => if e.foreign then [] else [{ kind := .peerLeft, station := some f.orig, turn := some f.turn }]
         | _ => []
       else []
     ((∀ g ∈ e.grants, g.entry.station ≠ s.self) →
       exec .frameClose s =
         .next { s.atClose with
           ztu := e.ztu
           tc :=
             { state := s.tc.state
               turn := s.tc.turn + 1
               lastApplied := some { orig := f.orig, turn := f.turn, check := f.check }
               roster := e.roster
               closure := some (f.closureOf op e false)
               waitTimer := if s.tc.state = .member ∧ s.waitCond = false then none else s.tc.waitTimer }
           fe := { s.atClose.fe with
             hold := true
             rollUse := .order
             slotRequest := (s.tc.state == .member || s.tc.state == .leaving) && !e.foreign }
           hp := s.hp.posts peers }) ∧
     (s.tc.state = .member → s.ru.waitsIn (e.grantedTo s.self) →
       ∃ t, exec .frameClose s = .next t ∧ t.ztu = e.ztu ∧
         t.tc =
           { state := .member
             turn := s.tc.turn + 1
             lastApplied := some { orig := f.orig, turn := f.turn, check := f.check }
             roster := e.roster
             closure := some (f.closureOf op e false)
             waitTimer := if t.waitCond then (if s.waitCond then s.tc.waitTimer else some 0) else none } ∧
         s.grantsIn (e.grantedTo s.self) f.turn peers t ∧
         t.fe = { s.atClose.fe with hold := true, rollUse := .order, slotRequest := !e.foreign } ∧ t.cu = s.cu ∧
         t.lif = s.atClose.lif ∧ t.pins = s.pins ∧ t.pending = s.pending)) ∧
  ∀ (s : State) (f : Frame) (op : OrderOp), s.receives f → f.payload = .order op → s.noClosure → f.turn = s.tc.turn →
    f.orig = s.self →
    let closed : State := { s.atClose with fe := { s.atClose.fe with hold := true } }
    let suspect : List Notice := [{ kind := .duplicateSuspect, station := some s.self }]
    (s.inStep → op = .join ∨ op = .leave →
      ∃ t, exec .frameClose s = .next t ∧ closed.lagsTo suspect s.tc.turn .selfEvicted t) ∧
    (s.tc.state = .member → op ≠ .join → op ≠ .leave →
      (∀ g ∈ (s.ztu.apply s.tc.roster s.self s.self op).grants, g.entry.station ≠ s.self) →
      ∃ t, exec .frameClose s = .next t ∧ closed.lagsTo suspect (s.tc.turn + 1) .selfEvicted t)

/-- FRAME_CLOSE of the station's own order frame, which the edit grants nothing beside its own outcome: the edit is made, T
advances by one, the last-applied record names the frame, and the closure record opens with own = yes. In MEMBER the request
on the line leaves the queue and OUTCOME is posted with its tag, zone, turn and outcome. A CLAIM sets the ticket by its
outcome, a RELEASE ends it, a TOUCH clears the touch flag; the internal TOUCH does so with its tries and with no notice; a
LEAVE ends every ticket with LOST, clears the touch flag, closes the source side and makes the station LEAVING. The wait-probe
timer starts when a ticket comes to wait, and stops when none does. An own JOIN makes a MEMBER of a FOUNDING or JOINING
station, with FOUNDED or JOINED (R34, R49, R58, R62, R69, R109, R111, R112, R114, R118 to R120). One point is the model's
inference (DEDUCED, log entry 14): the clauses touchTries = 0 of a host TOUCH and of the LEAVE. R119 has them clear the flag,
and R120 names the tries only for the internal TOUCH. -/
def Obligations.OwnOrdersTakeEffect : Prop :=
  ∀ (s : State) (a : Attempt) (f : Frame) (op : OrderOp), s.receivesOwn a f → s.noClosure → f.payload = .order op →
    f.orig = s.self → f.turn = s.tc.turn →
    let e := s.ztu.apply s.tc.roster s.self s.self op
    (∀ g ∈ e.grants, g.entry.station ≠ s.self) →
    let applied (t : State) : Prop :=
      t.ztu = e.ztu ∧ t.tc.turn = s.tc.turn + 1 ∧
        t.tc.lastApplied = some { orig := f.orig, turn := f.turn, check := f.check } ∧ t.tc.roster = e.roster ∧
        t.tc.closure = some (f.closureOf op e true) ∧ t.fe.tx = none ∧ t.fe.rx = none ∧ t.fe.hold = true ∧
        t.fe.rollUse = .order ∧ t.fe.slotRequest = !e.foreign ∧ t.lif = s.atClose.lif ∧ t.pins = s.pins
    let timed (t : State) : Prop :=
      t.tc.waitTimer = if t.waitCond then (if s.waitCond then s.tc.waitTimer else some 0) else none
    (∀ (q : Request) (behind : List Request), a.source = .request → s.tc.state = .member → s.ru.queue = q :: behind →
      q.onLine = true → q.op.order = op →
      let told : Notice :=
        { kind := .outcome, tag := some q.tag, request := some q.op.kind, zone := q.op.zone, turn := some f.turn,
          reason := some (.outcome e.outcome) }
      (∀ z m, q.op = .claim z m →
        ∃ t, exec .frameClose s = .next t ∧ applied t ∧ timed t ∧ t.tc.state = .member ∧ t.ru.queue = behind ∧
          (∀ y : Zone, t.ru.ticket y =
            if y = z ∧ e.outcome = .granted then .holding q.tag m
            else if y = z ∧ e.outcome = .queued then .waiting q.tag m
            else s.ru.ticket y) ∧
          t.ru.touchFlag = s.ru.touchFlag ∧ t.hp = s.hp.post told ∧ t.cu = s.cu) ∧
      (∀ z, q.op = .release z →
        ∃ t, exec .frameClose s = .next t ∧ applied t ∧ timed t ∧ t.tc.state = .member ∧ t.ru.queue = behind ∧
          (∀ y : Zone, t.ru.ticket y =
            if y = z ∧ (e.outcome = .released ∨ e.outcome = .withdrawn) then .none else s.ru.ticket y) ∧
          t.ru.touchFlag = s.ru.touchFlag ∧ t.hp = s.hp.post told ∧ t.cu = s.cu) ∧
      (q.op = .touch →
        ∃ t, exec .frameClose s = .next t ∧ applied t ∧ timed t ∧ t.tc.state = .member ∧ t.ru.queue = behind ∧
          (∀ y : Zone, t.ru.ticket y = s.ru.ticket y) ∧ t.ru.touchFlag = false ∧ t.ru.touchTries = 0 ∧
          t.hp = s.hp.post told ∧ t.cu = s.cu) ∧
      (q.op = .leave → (∀ z : Zone, (s.ztu.zone z).apart) →
        ∃ t, exec .frameClose s = .next t ∧ applied t ∧ t.tc.waitTimer = none ∧ t.tc.state = .leaving ∧
          t.ru.queue = behind ∧ (∀ y : Zone, t.ru.ticket y = if y ∈ e.removals then .none else s.ru.ticket y) ∧
          t.ru.touchFlag = false ∧ t.ru.touchTries = 0 ∧ t.fe.copy = none ∧
          t.cu =
            { s.cu with
              waiting := 0, phase := .idle, streamSet := 0, partIndex := 0, partCount := 0, repNo := 0, image := none } ∧
          t.hp = s.hp.posts (told :: e.removals.flatMap fun z =>
            match s.ru.ticket z with
            | .none => []
            | .waiting tag _ =>
              [{ kind := .lost, tag := some tag, zone := some z, turn := some f.turn, reason := some (.frame .leave) }]
            | .holding tag _ =>
              [{ kind := .lost, tag := some tag, zone := some z, turn := some f.turn,
                 reason := some (.frame .leave) }]))) ∧
    (a.source = .touch → op = .touch → s.tc.state = .member →
      ∃ t, exec .frameClose s = .next t ∧ applied t ∧ timed t ∧ t.tc.state = .member ∧ t.ru.queue = s.ru.queue ∧
        (∀ y : Zone, t.ru.ticket y = s.ru.ticket y) ∧ t.ru.touchFlag = false ∧ t.ru.touchOnLine = false ∧
        t.ru.touchTries = 0 ∧ t.hp = s.hp ∧ t.cu = s.cu) ∧
    (a.source = .join → op = .join → (s.tc.state = .founding ∧ s.tc.turn = 0) ∨ s.tc.state = .joining →
      ∃ t, exec .frameClose s = .next t ∧ applied t ∧ t.tc.waitTimer = s.tc.waitTimer ∧ t.tc.state = .member ∧
        t.fe.join = none ∧ t.ru = s.ru ∧ t.cu = s.cu ∧
        t.hp = s.hp.post
          { kind := if s.tc.state = .founding then .founded else .joined, turn := some f.turn })

/-- FRAME_CLOSE of a frame 1 to 32767 turns ahead, in step with no closure pending, is a lag event with the reason GAP:
nothing is applied, the table, the roster, the turn and the records are discarded, LAGGED, then LOST for each ticket in
ascending zone order, then CANCELLED for each request, oldest first, are posted, the source stops, and the station is in
HAILING with a new HAIL or, with auto-rejoin off, in OFFLINE (R33, R36, R64, R65, R71, R115). -/
def Obligations.GapIsALagEvent : Prop :=
  ∀ (s : State) (f : Frame) (op : OrderOp), s.receives f → f.payload = .order op → s.inStep → s.noClosure →
    1 ≤ (f.turn - s.tc.turn).toNat → (f.turn - s.tc.turn).toNat ≤ 32767 →
    ∃ t, exec .frameClose s = .next t ∧
      ({ s.atClose with fe := { s.atClose.fe with hold := true } } : State).lagsTo [] s.tc.turn .gap t

/-- FRAME_CLOSE of a stale frame changes nothing but the yield hold, and one of a recognised repeat with its closure pending
raises the repeat number seen and decides the slot as at the apply. A recognised repeat whose closure has been taken is a
lag event with the reason ROLL-UNREADABLE. The station's own REPEAT, received back, is recognised in the same way, and its
pending frame leaves the selector (R33, R35, R36, R38, R41, R65, R166). -/
def Obligations.StaleIsIgnoredAndRepeatsRecognised : Prop :=
  (∀ (s : State) (f : Frame) (op : OrderOp), s.receives f → f.payload = .order op → s.inStep →
    let d := (f.turn - s.tc.turn).toNat
    let closed : State := { s.atClose with fe := { s.atClose.fe with hold := true } }
    let known : Prop := ∃ l, s.tc.lastApplied = some l ∧ l.orig = f.orig ∧ l.check = f.check
    (s.noClosure → (32768 ≤ d ∧ d ≤ 65534) ∨ (d = 65535 ∧ ¬ known) → exec .frameClose s = .next closed) ∧
    (s.noClosure → d = 65535 → known →
      ∃ t, exec .frameClose s = .next t ∧ closed.lagsTo [] s.tc.turn .rollUnreadable t) ∧
    ∀ c : ClosureRecord, d = 65535 → s.tc.closure = some c → c.closed = false → c.orig = f.orig → c.turn = f.turn →
      c.check = f.check → s.tc.lastApplied = some { orig := f.orig, turn := f.turn, check := f.check } →
      exec .frameClose s =
        .next { s.atClose with
          tc := { s.tc with closure := some { c with repSeen := if c.repSeen < f.repNo then f.repNo else c.repSeen } }
          fe := { s.atClose.fe with
            hold := true
            rollUse := .order
            slotRequest := (s.tc.state == .member || s.tc.state == .leaving) && !c.foreign } }) ∧
  ∀ (s : State) (a : Attempt) (f : Frame) (op : OrderOp) (c : ClosureRecord), s.receivesOwn a f → a.source = .rept →
    f.payload = .order op → s.inStep → f.turn = s.tc.turn - 1 → s.tc.closure = some c → c.closed = false →
    c.orig = f.orig → c.turn = f.turn → c.check = f.check →
    s.tc.lastApplied = some { orig := f.orig, turn := f.turn, check := f.check } →
    exec .frameClose s =
      .next { s.atClose with
        tc := { s.tc with closure := some { c with repSeen := if c.repSeen < f.repNo then f.repNo else c.repSeen } }
        fe := { s.atClose.fe with
          rept := none
          tx := none
          hold := true
          rollUse := .order
          slotRequest := (s.tc.state == .member || s.tc.state == .leaving) && !c.foreign } }

/-- FRAME_CLOSE by the class of the frame and the station state. Another station's HAIL: a MEMBER asserts its slot and reads
the roll, and every other station does neither. A copy frame is disregarded outside FOUNDING and COPYING. An order-class
frame is disregarded in OFFLINE, in HAILING and in COPYING with logging off, but for the yield hold. In FOUNDING another
station's order-class or copy frame sends the station back to HAILING with a new HAIL, its JOIN withdrawn. The own HAIL in
HAILING empties the log and turns logging on, and its roll goes to the Turn Controller; the roll of the own copy frame in
MEMBER goes to the Copy Unit; both frames leave the selector (R32, R40, R53 to R55, R58, R61, R70, R79, R83, R85, R165 to
R167, R177). -/
def Obligations.FramesAreHandedByClassAndState : Prop :=
  (∀ (s : State) (f : Frame), s.receives f → s.noClosure →
    let abandons (t : State) : State :=
      { t with
        tc := { s.tc with state := .hailing }
        fe := { t.fe with hail := some 0, join := none }
        cu := { s.cu with log := [], logging := false } }
    (f.payload = .hail →
      (s.tc.state = .member →
        exec .frameClose s =
          .next { s.atClose with fe := { s.atClose.fe with rollUse := .hail f.orig, slotRequest := true } }) ∧
      (s.tc.state ≠ .member → exec .frameClose s = .next s.atClose)) ∧
    (∀ body, f.payload = .copyHead body ∨ f.payload = .copyPart body →
      (s.tc.state ≠ .founding → s.tc.state ≠ .copying → exec .frameClose s = .next s.atClose) ∧
      (s.tc.state = .founding → exec .frameClose s = .next (abandons s.atClose))) ∧
    ∀ op, f.payload = .order op →
      let closed : State := { s.atClose with fe := { s.atClose.fe with hold := true } }
      (s.tc.state = .offline ∨ s.tc.state = .hailing ∨ (s.tc.state = .copying ∧ s.cu.logging = false) →
        exec .frameClose s = .next closed) ∧
      (s.tc.state = .founding → exec .frameClose s = .next (abandons closed))) ∧
  ∀ (s : State) (a : Attempt) (f : Frame), s.receivesOwn a f → s.noClosure →
    (a.source = .hail → f.payload = .hail → s.tc.state = .hailing →
      exec .frameClose s =
        .next { s.atClose with
          fe := { s.atClose.fe with hail := none, tx := none, rollUse := .ownHail }
          cu := { s.cu with log := [], logging := true } }) ∧
    ∀ body, a.source = .copy → f.payload = .copyHead body ∨ f.payload = .copyPart body → s.tc.state = .member →
      exec .frameClose s =
        .next { s.atClose with fe := { s.atClose.fe with copy := none, tx := none, rollUse := .ownCopy } }

/-- FRAME_CLOSE at a requester in COPYING. A head from the awaited source that names the station and carries no recorded
stream number, whether none is recorded or another one, is examined anew. With consistent counts and at least one part it is
accepted: the stream record, an empty image, the log pruned of entries before the snapshot turn, the copy timer restarted, the
slot asserted. Inconsistent counts end the copy with PART-MISSED, and a pruned log that starts past the snapshot turn with
LOG-GAP. A head with no part is stated by InstallMakesTheImageTheTable. A part with the next index that is not the last is
accepted: its records join the image; bytes that make no records end the copy with PART-MISSED. A head with the recorded
stream number and a part with an earlier index are recognised: the timer restarts and the slot is asserted. A part ahead of
the next index ends the copy with PART-MISSED. A head of another source or that does not name the station, and a part of
another source, of another stream or with no stream recorded, are disregarded (R83, R88 to R91, R97, R187). With logging on,
an order-class frame at the expected turn becomes the newest log entry, the one before it closed; a repeat of the newest open
entry raises its repeat number seen; a full log ends the copy with LOG-FULL, and with LOG-GAP a turn ahead of the expected one
or, when the log has an entry and the frame is no repeat of an open one, the turn just before it. Every other turn is
disregarded, the newest entry being closed (R85 to R87). -/
def Obligations.RequesterTakesTheCopy : Prop :=
  (∀ (s : State) (f : Frame), s.receives f → s.noClosure → s.tc.state = .copying →
    let answered : State :=
      { s.atClose with
        fe := { s.atClose.fe with slotRequest := true }
        cu := { s.cu with copyTimer := some 0 } }
    let fails (why : CopyReason) : Prop := ∃ t, exec .frameClose s = .next t ∧ s.atClose.restartsTo [] why t
    (∀ (number : Byte) (snap : Turn) (roster requesters : StationSet) (parts occupied : Nat),
      f.payload = .copyHead (number :: (wordBytes snap ++ wordBytes roster ++ wordBytes requesters ++
        [BitVec.ofNat 8 parts, BitVec.ofNat 8 occupied])) → parts < 256 → occupied < 256 →
      let ours : Prop := s.cu.awaited = some f.orig ∧ StationSet.has requesters s.self = true
      let kept := s.cu.log.filter fun e => !(1 ≤ (snap - e.turn).toNat && (snap - e.turn).toNat ≤ 32767)
      (¬ ours → exec .frameClose s = .next s.atClose) ∧
      (ours → ∀ st, s.cu.stream = some st → st.number = number → exec .frameClose s = .next answered) ∧
      (ours → (∀ st, s.cu.stream = some st → st.number ≠ number) →
        (64 < parts ∨ 64 < occupied ∨ occupied < parts ∨ (parts = 0 ∧ occupied ≠ 0) → fails .partMissed) ∧
        (parts ≤ occupied → occupied ≤ 64 → (parts = 0 → occupied = 0) →
          ∀ e, kept.head? = some e → e.turn ≠ snap → fails .logGap) ∧
        (1 ≤ parts → parts ≤ occupied → occupied ≤ 64 → (∀ e, kept.head? = some e → e.turn = snap) →
          exec .frameClose s =
            .next { answered with
              cu := { answered.cu with
                stream := some { number := number, snapTurn := snap, roster := roster, partCount := parts,
                                 occupied := occupied, nextPart := 0 }
                build := some []
                log := kept } }))) ∧
    ∀ (number index : Byte) (bytes : List Byte), f.payload = .copyPart (number :: index :: bytes) →
      (s.cu.stream = none → exec .frameClose s = .next s.atClose) ∧
      ∀ st : ReqStream, s.cu.stream = some st →
        let ours : Prop := s.cu.awaited = some f.orig ∧ st.number = number
        (¬ ours → exec .frameClose s = .next s.atClose) ∧
        (ours → index.toNat < st.nextPart → exec .frameClose s = .next answered) ∧
        (ours → st.nextPart < index.toNat → fails .partMissed) ∧
        (ours → st.nextPart = index.toNat →
          (readRecs bytes = none → fails .partMissed) ∧
          (∀ had recs : List CopyRec, s.cu.build = some had → bytes = recs.flatMap CopyRec.bytes →
            (∀ r ∈ recs, r.queue.length ≤ 31) → st.nextPart + 1 ≠ st.partCount →
            exec .frameClose s =
              .next { answered with
                cu := { answered.cu with
                  stream := some { st with nextPart := st.nextPart + 1 }
                  build := some (had ++ recs) } }))) ∧
  ∀ (s : State) (f : Frame) (op : OrderOp), s.receives f → s.noClosure → s.tc.state = .copying →
    f.payload = .order op → s.cu.logging = true →
    let closed : State := { s.atClose with fe := { s.atClose.fe with hold := true } }
    let entry : LogEntry :=
      { turn := f.turn, orig := f.orig, op := op, check := f.check, repSeen := f.repNo, lastRoll := none, closed := false }
    let logged (log : List LogEntry) : Prop :=
      exec .frameClose s =
        .next { closed with fe := { closed.fe with rollUse := .log f.repNo }, cu := { s.cu with log := log } }
    let fails (why : CopyReason) : Prop := ∃ t, exec .frameClose s = .next t ∧ closed.restartsTo [] why t
    (s.cu.log = [] →
      (s.cu.stream = none → logged [entry]) ∧
      ∀ st, s.cu.stream = some st →
        (f.turn = st.snapTurn → logged [entry]) ∧
        (1 ≤ (f.turn - st.snapTurn).toNat → (f.turn - st.snapTurn).toNat ≤ 32767 → fails .logGap) ∧
        (32768 ≤ (f.turn - st.snapTurn).toNat → exec .frameClose s = .next closed)) ∧
    ∀ (older : List LogEntry) (e : LogEntry), s.cu.log = older ++ [e] →
      let again : Prop := e.closed = false ∧ e.turn = f.turn ∧ e.orig = f.orig ∧ e.check = f.check
      let d := (f.turn - (e.turn + 1)).toNat
      (again → logged (older ++ [{ e with repSeen := if e.repSeen < f.repNo then f.repNo else e.repSeen }])) ∧
      (f.turn = e.turn + 1 → older.length < 23 → logged (older ++ [{ e with closed := true }, entry])) ∧
      (f.turn = e.turn + 1 → 23 ≤ older.length → fails .logFull) ∧
      (1 ≤ d → d ≤ 32767 → fails .logGap) ∧
      (f.turn = e.turn → ¬ again → fails .logGap) ∧
      (32768 ≤ d → d ≤ 65534 →
        exec .frameClose s = .next { closed with cu := { s.cu with log := older ++ [{ e with closed := true }] } })

/-- OWN_SLOT_DRIVE drives the own slot for one quantum from its start, when its assertion was asked for, the own slot has
not begun by then, where now is counted from the last report, and no pulse that reached 10Q has ended the window; the next
slot to be reported is the own one or the one before it. SLOT_READ reports the next slot from the stretches that LRX showed
since the report before, when they end at the slot's report: EMPTY when no pulse begins in it and none that is not a valid
pulse of the slot before holds the line at its start, ASSERTED for exactly one pulse that begins in the first half and is
0.5Q to 1.4Q long, DAMAGED otherwise. A pulse that has passed 1.4Q still on the line holds it at the start of the next slot,
and so does one of a slot not ASSERTED that runs over and ends before the report (the slot's reading deciding which pulse is
valid is the model's inference, log entry 28). What is known to have passed beyond the point of a report counts on at the
level that stood there, so the 40Q of a dominant level run from its edge (that it is the same level until the next stretches
say otherwise is the model's choice, log entry 3). After slot 15 the REST begins. Once a pulse on the line has reached 10Q,
no slot is reported and none is driven (R144, R145, R150, R155, R157, R176). -/
def Obligations.RollWindow : Prop :=
  (∀ s : State, s.pins.resetLow = false → s.lif.line = .busy .roll →
    (s.fe.slots.length = s.self.val ∨ s.fe.slots.length + 1 = s.self.val) →
    let begins : Int := 80 * ((s.self.val : Int) - s.fe.slots.length)
    let now : Int := s.lif.slotAt + s.lif.sinceReport
    let start (a : Nat) : Int := s.lif.slotAt + a
    let ended : Prop := s.lif.low = true ∧ 400 ≤ s.lif.lasted
    (∀ first later, s.fe.slotRequest = false ∨ begins < now ∨ ended → exec (.ownSlotDrive first later) s = .next s) ∧
    (∀ first later h n, s.lif.slotHeld = some h → Stretch.running first = some n → 400 ≤ h + n →
      exec (.ownSlotDrive first later) s = .next s) ∧
    ∀ t : Nat, s.fe.slotRequest = true → s.lif.drive = none → ¬ ended → now + t = begins →
      let drives (first : Stretch) (later : List Stretch) (low : Bool) (lasted : Nat) : Prop :=
        let driven : State :=
          { s with
            fe := { s.fe with slotRequest := false }
            lif := { s.lif.later t with low := low, lasted := lasted, drive := some { symbol := .slot, left := 40 } } }
        exec (.ownSlotDrive first later) s = .next driven ∧
          (s.pending = [] → ∃ u, step driven = .next u ∧ u.ltxLow = false)
      (s.lif.slotHeld = none →
        (∀ x n, Stretch.running x = some n → start n = begins → drives x [] s.lif.low (s.lif.lasted + t)) ∧
        (∀ x y n m, Stretch.running x = some n → Stretch.running y = some m → start (n + m) = begins →
          drives x [y] true m) ∧
        (∀ x y z n m b, Stretch.running x = some n → Stretch.seen y = some m → Stretch.running z = some b →
          start (n + m + b) = begins → drives x [y, z] false b)) ∧
      ∀ h, s.lif.slotHeld = some h →
        (∀ x n, Stretch.running x = some n → h + n < 400 → start n = begins → drives x [] s.lif.low (s.lif.lasted + t)) ∧
        (∀ x y n b, Stretch.running x = some n → Stretch.running y = some b → h + n < 400 → start (n + b) = begins →
          drives x [y] false b) ∧
        (∀ x y z n b m, Stretch.running x = some n → Stretch.seen y = some b → Stretch.running z = some m → h + n < 400 →
          start (n + b + m) = begins → drives x [y, z] true m)) ∧
  (∀ (s : State) (first : Stretch) (later : List Stretch), s.pins.resetLow = false → s.lif.line = .busy .roll →
    (s.lif.low = true ∧ 400 ≤ s.lif.lasted) ∨
      (∃ h n, s.lif.slotHeld = some h ∧ Stretch.running first = some n ∧ 400 ≤ h + n) →
    exec (.slotRead first later) s = .next s) ∧
  ∀ s : State, s.pins.resetLow = false → s.lif.line = .busy .roll → s.lif.low = false ∨ s.lif.lasted < 400 →
    let k := s.fe.slots.length
    let reported (first : Stretch) (later : List Stretch) (reading : SlotReading) (lasted time : Nat)
        (held : Option Nat) (spoilt : Prop) [Decidable spoilt] : Prop :=
      exec (.slotRead first later) s =
        .next { s with
          fe := { s.fe with
            slots := s.fe.slots ++ [reading]
            slotRequest := if k = s.self.val then false else s.fe.slotRequest }
          lif :=
            { line := if k = 15 then .busy .rest else .busy .roll
              drive := (s.lif.later (time - s.lif.sinceReport)).drive
              low := held.isSome, lasted := lasted + (s.lif.sinceReport - time), slotAt := s.lif.slotAt + time - 80
              sinceReport := s.lif.sinceReport - time, slotHeld := held, slotSpoilt := decide spoilt } }
    let start (a : Nat) : Int := s.lif.slotAt + a
    let due (a m : Nat) : Int := max 80 (start a + min m 56)
    (s.lif.slotHeld = none →
      (∀ x n, Stretch.running x = some n → start n = 80 →
        reported x [] (if s.lif.slotSpoilt then .damaged else .empty) n n none False) ∧
      (∀ x y z a m b, Stretch.running x = some a → Stretch.seen y = some m → Stretch.running z = some b →
        start a < 80 → start (a + m + b) = due a m →
        let fair : Prop :=
          s.lif.slotSpoilt = false ∧ (if k = 0 then -20 else 0) ≤ start a ∧ start a < 40 ∧ 20 ≤ m ∧ m ≤ 56
        (fair → reported x [y, z] .asserted b (a + m + b) none False) ∧
        (¬ fair → reported x [y, z] .damaged b (a + m + b) none (80 < start (a + m)))) ∧
      (∀ x y a m, Stretch.running x = some a → Stretch.running y = some m → start a < 80 →
        start (a + m) = max 80 (start a + 56) →
        reported x [y] .damaged m (a + m) (some m) (80 < start (a + m))) ∧
      (∀ v w x y z a m b n c, Stretch.running v = some a → Stretch.seen w = some m → Stretch.seen x = some b →
        Stretch.seen y = some n → Stretch.running z = some c → start (a + m + b) < 80 →
        start (a + m + b + n + c) = max (due a m) (due (a + m + b) n) →
        reported v [w, x, y, z] .damaged c (a + m + b + n + c) none (80 < start (a + m + b + n)))) ∧
    ∀ h, s.lif.slotHeld = some h →
      (∀ x n, Stretch.running x = some n → h + n < 400 → start n = 80 →
        reported x [] .damaged (h + n) n (some (h + n)) False) ∧
      (∀ x y n b, Stretch.running x = some n → Stretch.running y = some b → h + n < 400 → start (n + b) = 80 →
        reported x [y] .damaged b (n + b) none False)

/-- REST_END: the line is IDLE, the yield timer starts when the hold is set, and the roll is handed over; it is unreadable
when a slot was DAMAGED and otherwise holds the stations found asserted. The roll of an order frame under closure becomes
the last roll seen: an incomplete roll of the station's own frame makes the REPEAT with the next repeat number pending, and
the roll of repeat number 3 is the final roll, on which the closure is taken as a lapse of the yield interval takes it. A
MEMBER reads the roll of another station's HAIL: the lowest-numbered station in it other than the hailer takes the hailer
into its waiting set, out of a stream set it is in, and a stream begins when none is left. The source reads the roll of its
own copy frame: complete, the next frame of the stream is pending, or the stream is complete; not complete, the next repeat
number is, and after number 3 the stations it lacks are dropped. The roll of a log entry is recorded in it and, after repeat
number 3, closes it (R40 to R43, R75, R76, R79, R80, R82, R87, R151, R157, R167, R177). Three points are the model's: a
REPEAT that is pending already, as it may be after a same-number station's identical REPEAT, stays pending when a complete
roll ends the obligation (DESIGN CHOICE, log entry 30), a completed stream keeps its part index, part count and repeat
number, since R79 names the phase, the stream set and the image alone (DEDUCED, log entry 15), and the roll is handed over
before the line is IDLE (DEDUCED, log entry 21). -/
def Obligations.RestEndHandsTheRollOver : Prop :=
  (∀ (slots : List SlotReading), SlotReading.damaged ∈ slots → rollOf slots = .unreadable) ∧
  (∀ (slots : List SlotReading), SlotReading.damaged ∉ slots → ∃ set, rollOf slots = .readable set ∧
    ∀ k : Station, StationSet.has set k = true ↔ slots[k.val]? = some .asserted) ∧
  ∀ s : State, s.pins.resetLow = false → s.lif.line = .busy .rest → s.lif.low = false →
    (∀ a, s.fe.tx = some a → a.faulted = false) →
    let t : State :=
      { s with
        lif := { s.lif.later (240 - (s.lif.slotAt + s.lif.sinceReport)).toNat with line := .idle }
        fe := { s.fe with
          rollUse := .none
          slots := []
          slotRequest := false
          yieldTimer := if s.fe.hold then some 0 else none } }
    let holds (k : Station) : Prop := SlotReading.damaged ∉ s.fe.slots ∧ s.fe.slots[k.val]? = some .asserted
    (s.fe.rollUse = .none → exec .restEnd s = .next t) ∧
    (∀ c : ClosureRecord, s.fe.rollUse = .order → s.tc.closure = some c → c.closed = false →
      let whole : Prop :=
        SlotReading.damaged ∉ s.fe.slots ∧ ∀ k : Station, StationSet.has c.expected k = true → holds k
      let read : State :=
        { t with tc := { s.tc with closure := some { c with lastRoll := some (rollOf s.fe.slots) } } }
      (c.repSeen ≠ 3 → c.own = false ∨ whole → exec .restEnd s = .next read) ∧
      (c.repSeen ≠ 3 → c.own = true → ¬ whole →
        exec .restEnd s =
          .next { read with
            fe := { read.fe with
              rept := some
                { frame := { payload := .order c.op, repNo := c.repSeen + 1, orig := c.orig, turn := c.turn }
                  tries := 0 } } }) ∧
      (c.repSeen = 3 → s.fe.tx = none → s.cu.log = [] →
        ∃ u, exec .yieldLapse { read with fe := { read.fe with hold := true, yieldTimer := some 0 } } = .next u ∧
          exec .restEnd s =
            .next { u with
              fe := { u.fe with
                hold := s.fe.hold
                yieldTimer := if s.fe.hold then some 0 else none } })) ∧
    (∀ h : Station, s.fe.rollUse = .hail h → s.tc.state = .member →
      let chosen : Prop := s.self ≠ h ∧ holds s.self ∧ ∀ j : Station, j < s.self → j ≠ h → ¬ holds j
      let waits : Cu :=
        { s.cu with
          waiting := StationSet.add s.cu.waiting h
          streamSet := s.cu.streamSet &&& ~~~(StationSet.one h) }
      (¬ chosen → exec .restEnd s = .next t) ∧
      (chosen → s.cu.phase ≠ .idle → s.cu.streamSet ≠ StationSet.one h → exec .restEnd s = .next { t with cu := waits }) ∧
      (chosen → s.cu.phase = .idle → s.cu.streamSet = 0 →
        exec .restEnd s =
          .next { t with
            cu := { waits with streamNo := s.cu.streamNo + 1, phase := .head, repNo := 0 }
            fe := { t.fe with copy := some 0 } }) ∧
      (chosen → s.cu.streamSet = StationSet.one h → s.fe.tx = none →
        exec .restEnd s =
          .next { t with
            cu := { waits with
              streamNo := s.cu.streamNo + 1, phase := .head, partIndex := 0, partCount := 0, repNo := 0, image := none }
            fe := { t.fe with copy := some 0 } })) ∧
    (s.fe.rollUse = .ownCopy → s.tc.state = .member → s.fe.tx = none →
      let whole : Prop :=
        SlotReading.damaged ∉ s.fe.slots ∧ ∀ k : Station, StationSet.has s.cu.streamSet k = true → holds k
      let offered : State := { t with fe := { t.fe with copy := some 0 } }
      let begun (c : Cu) : State :=
        if c.waiting = 0 then { t with cu := c }
        else { offered with cu := { c with streamNo := c.streamNo + 1, phase := .head, repNo := 0 } }
      let dropped (u : State) : State := if s.cu.waiting = 0 then { u with fe := { u.fe with copy := none } } else u
      (s.cu.phase = .idle → exec .restEnd s = .next t) ∧
      (s.cu.phase ≠ .idle → ¬ whole → s.cu.repNo ≠ 3 →
        exec .restEnd s = .next { offered with cu := { s.cu with repNo := s.cu.repNo + 1 } }) ∧
      ∀ left : StationSet,
        (∀ k : Station, StationSet.has left k = true ↔ StationSet.has s.cu.streamSet k = true ∧ holds k) →
        s.cu.phase ≠ .idle → whole ∨ s.cu.repNo = 3 →
        let kept : Cu := { s.cu with streamSet := left }
        (left = 0 →
          exec .restEnd s =
            .next (dropped (begun
              { s.cu with phase := .idle, streamSet := 0, partIndex := 0, partCount := 0, repNo := 0, image := none }))) ∧
        (left ≠ 0 → s.cu.phase = .head → s.cu.partCount ≠ 0 →
          exec .restEnd s = .next { offered with cu := { kept with phase := .parts, partIndex := 0, repNo := 0 } }) ∧
        (left ≠ 0 → s.cu.phase = .parts → s.cu.partIndex + 1 < s.cu.partCount →
          exec .restEnd s = .next { offered with cu := { kept with partIndex := s.cu.partIndex + 1, repNo := 0 } }) ∧
        (left ≠ 0 →
          (s.cu.phase = .head ∧ s.cu.partCount = 0) ∨ (s.cu.phase = .parts ∧ s.cu.partCount ≤ s.cu.partIndex + 1) →
          exec .restEnd s = .next (begun { s.cu with phase := .idle, streamSet := 0, image := none }))) ∧
    ∀ (n : Fin 4) (older : List LogEntry) (e : LogEntry), s.fe.rollUse = .log n → s.cu.log = older ++ [e] →
      exec .restEnd s =
        .next { t with
          cu := { s.cu with
            log := older ++
              [if e.closed then e else { e with lastRoll := some (rollOf s.fe.slots), closed := decide (n = 3) }] } }

/-- The roll of the own HAIL at REST_END in HAILING: unreadable, a new HAIL is pending; with no other station, the
station is FOUNDING with a JOIN pending; otherwise it is COPYING and awaits the lowest-numbered other station, with the
copy timer at zero (R56, R57, R84, R85). -/
def Obligations.HailRollDecides : Prop :=
  ∀ s : State, s.pins.resetLow = false → s.lif.line = .busy .rest → s.lif.low = false → s.fe.rollUse = .ownHail →
    s.tc.state = .hailing → s.fe.tx = none →
    let t : State :=
      { s with
        lif := { s.lif.later (240 - (s.lif.slotAt + s.lif.sinceReport)).toNat with line := .idle }
        fe := { s.fe with
          rollUse := .none
          slots := []
          slotRequest := false
          yieldTimer := if s.fe.hold then some 0 else none } }
    (SlotReading.damaged ∈ s.fe.slots →
      exec .restEnd s =
        .next { t with
          fe := { t.fe with hail := some 0, join := none }
          cu := { s.cu with log := [], logging := false } }) ∧
    (SlotReading.damaged ∉ s.fe.slots → (∀ k : Station, k ≠ s.self → s.fe.slots[k.val]? ≠ some .asserted) →
      exec .restEnd s =
        .next { t with
          tc := { s.tc with state := .founding }
          fe := { t.fe with join := some 0 }
          cu := { s.cu with log := [], logging := false } }) ∧
    ∀ k : Station, SlotReading.damaged ∉ s.fe.slots → k ≠ s.self → s.fe.slots[k.val]? = some .asserted →
      (∀ j : Station, j < k → j ≠ s.self → s.fe.slots[j.val]? ≠ some .asserted) →
      exec .restEnd s =
        .next { t with
          tc := { s.tc with state := .copying }
          cu := { s.cu with awaited := some k, stream := none, build := none, copyTimer := some 0 } }

/-! ### Closure, the take and the sender's tests -/

/-- The five cases in which a closure ends, the first that applies (R43, R46 to R48). -/
def Obligations.ClosureEndsByTheFinalRoll : Prop :=
  ∀ (c : ClosureRecord) (self : Station),
    (c.lastRoll = none ∨ c.lastRoll = some .unreadable → c.ending self = .lag .rollUnreadable) ∧
    ∀ roll : StationSet, c.lastRoll = some (.readable roll) →
      let alone : Prop :=
        c.own = true ∧ (∃ k : Station, k ≠ self ∧ StationSet.has c.expected k = true) ∧
          ∀ k : Station, k ≠ self → StationSet.has c.expected k = true → StationSet.has roll k = false
      let missing : Prop := StationSet.has c.expected self = true ∧ StationSet.has roll self = false
      (alone → c.ending self = .lag .staleSelf) ∧
      (¬ alone → missing → c.ending self = .lag .selfEvicted) ∧
      (¬ alone → ¬ missing → c.ending self = .evict (c.expected &&& ~~~roll))

/-- YIELD_LAPSE on an IDLE line with the hold set: the hold is cleared, the timer stopped and the newest log entry closed. A
pending closure is taken first: with every expected station in the final roll it evicts nobody; with stations missing, none
of them the own, they are removed with PEER-EVICTED notices in ascending order when that option is set. A pending REPEAT is
withdrawn and the wait-probe timer restarted. Where the removal grants a MEMBER its waiting entries, each ticket goes from
WAITING to HOLDING and GRANTED with the turn of the frame closed is posted for it, beside the PEER-EVICTED notices. A
closure that ends in one of the three lags is a lag event with that reason. The closure of the own LEAVE discards the table
and makes the station OFFLINE, with LEFT the last notice. The CLOSE of an accepted frame other than a repeat of the frame
under closure takes the closure too, as a lapse of the yield interval does, before the frame is handled (R42 to R45, R49,
R65, R70, R72, R87, R113, R118, R167). That the timer's count is not examined is the model's choice (log entry 3). -/
def Obligations.YieldLapseTakesTheClosure : Prop :=
  (∀ (s : State) (f : Frame) (c : ClosureRecord), s.receives f → s.tc.closure = some c → c.closed = false →
    s.cu.log = [] → (∀ op, f.payload = .order op → c.orig ≠ f.orig ∨ c.turn ≠ f.turn ∨ c.check ≠ f.check) →
    ∃ u,
      exec .yieldLapse
          { s with
            lif := { s.lif with line := .idle }
            fe := { s.fe with hold := true, yieldTimer := some 0 } } = .next u ∧
        u.noClosure ∧
        exec .frameClose s =
          exec .frameClose
            { u with lif := s.lif, fe := { u.fe with hold := s.fe.hold, yieldTimer := s.fe.yieldTimer } }) ∧
  ∀ s : State, s.pins.resetLow = false → s.lif.line = .idle → s.fe.hold = true → s.fe.yieldTimer ≠ none →
    let lapsed : Fe := { s.fe with hold := false, yieldTimer := none }
    (s.noClosure →
      (s.cu.log = [] → exec .yieldLapse s = .next { s with fe := lapsed }) ∧
      ∀ older e, s.cu.log = older ++ [e] →
        exec .yieldLapse s =
          .next { s with fe := lapsed, cu := { s.cu with log := older ++ [{ e with closed := true }] } }) ∧
    ∀ c : ClosureRecord, s.tc.closure = some c → c.closed = false → s.fe.tx = none →
      (∀ why, c.ending s.self = .lag why →
        ∃ t, exec .yieldLapse s = .next t ∧ ({ s with fe := lapsed } : State).lagsTo [] s.tc.turn why t) ∧
      ∀ roll : StationSet, c.lastRoll = some (.readable roll) →
        let gone : StationSet := c.expected &&& ~~~roll
        let evicted : List Notice :=
          if s.hp.peerNotices then
            (StationSet.members (s.tc.roster &&& gone)).map fun k =>
              { kind := .peerEvicted, station := some k, turn := some c.turn }
          else []
        (s.cu.log = [] → ¬ (s.tc.state = .leaving ∧ c.own = true) →
          let closed : Tc :=
            { s.tc with
              closure := some { c with closed := true }
              waitTimer := if s.waitCond then some 0 else none }
          ((∀ k : Station, StationSet.has c.expected k = true → StationSet.has roll k = true) →
            exec .yieldLapse s = .next { s with tc := closed, fe := { lapsed with rept := none } }) ∧
          (c.ending s.self = .evict gone → gone ≠ 0 → StationSet.has gone s.self = false →
            let e := s.ztu.remove s.tc.roster gone s.self
            ((∀ g ∈ e.grants, g.entry.station ≠ s.self) →
              exec .yieldLapse s =
                .next { s with
                  ztu := e.ztu
                  tc := { closed with roster := e.roster }
                  fe := { lapsed with rept := none }
                  hp := s.hp.posts evicted }) ∧
            (s.tc.state = .member → s.ru.waitsIn (e.grantedTo s.self) →
              ∃ t, exec .yieldLapse s = .next t ∧ t.ztu = e.ztu ∧
                t.tc = { closed with roster := e.roster, waitTimer := if t.waitCond then some 0 else none } ∧
                s.grantsIn (e.grantedTo s.self) c.turn evicted t ∧ t.fe = { lapsed with rept := none } ∧
                t.cu = s.cu ∧ t.lif = s.lif ∧ t.pins = s.pins ∧ t.pending = s.pending))) ∧
        (s.tc.state = .leaving → c.own = true → c.ending s.self = .evict gone →
          ∃ t, exec .yieldLapse s = .next t ∧
            t.tc =
              { state := .offline, turn := 0, lastApplied := none, roster := 0, closure := none, waitTimer := none } ∧
            (∀ z : Zone, t.ztu.zone z = { state := .free, holders := 0, queue := [] }) ∧ t.ztu.free = 96 ∧
            t.cu = State.reset.cu ∧ t.fe = { lapsed with rept := none } ∧ t.ru = s.ru ∧
            t.hp = s.hp.posts (evicted ++ [{ kind := .left, turn := some c.turn }]) ∧ t.lif = s.lif ∧ t.pins = s.pins)

/-- FRAME_TAKE on an IDLE line with LTX not driven: the selector serves REPEAT, ORDER, COPY and HAIL in that order, the
frame is built from its source and from T, the OPEN is driven for 5Q and the line leaves IDLE. Under the yield hold or a
pending closure nothing but a REPEAT starts. A COPY-HEAD with repeat number 0 takes its snapshot; its repeats carry the same
body, and a COPY-PART the records of its part. Where the line is not IDLE, LTX is still driven or no source has a frame,
nothing is taken (R77, R78, R105, R106, R120, R144, R168 to R170, R185). -/
def Obligations.FrameTakeServesTheSources : Prop :=
  ∀ s : State, s.pins.resetLow = false → s.fe.tx = none →
    (s.lif.line ≠ .idle ∨ s.lif.drive ≠ none → exec .frameTake s = .next s) ∧
    (s.lif.line = .idle → s.lif.drive = none →
      let taken (t : State) (src : Source) (f : Frame) : State :=
        { t with
          lif := { s.lif with line := .busy .pulse, drive := some { symbol := .openSymbol, left := 200 } }
          fe := { s.fe with
            yieldTimer := none
            tx := some { source := src, frame := f, bits := f.bits, driven := 0, faulted := false,
                         missed := false, withdrawn := false } } }
      let own (op : OrderOp) : Frame := { payload := .order op, repNo := 0, orig := s.self, turn := s.tc.turn }
      (∀ p, s.tc.state = .member ∨ s.tc.state = .leaving → s.fe.rept = some p →
        exec .frameTake s = .next (taken s .rept p.frame)) ∧
      (s.fe.rept = none → s.fe.hold = true ∨ ¬ s.noClosure → exec .frameTake s = .next s) ∧
      (s.fe.hold = false → s.noClosure →
        (s.tc.state = .offline ∨ s.tc.state = .copying ∨ (s.tc.state = .leaving ∧ s.fe.rept = none) →
          exec .frameTake s = .next s) ∧
        (s.tc.state = .hailing → s.fe.hail = none → exec .frameTake s = .next s) ∧
        (s.tc.state = .founding ∨ s.tc.state = .joining → s.fe.join = none → exec .frameTake s = .next s) ∧
        (s.tc.state = .hailing → s.fe.hail ≠ none →
          exec .frameTake s = .next (taken s .hail { payload := .hail, repNo := 0, orig := s.self, turn := 0 })) ∧
        (s.tc.state = .founding ∨ s.tc.state = .joining → s.fe.join ≠ none →
          exec .frameTake s = .next (taken s .join (own .join))) ∧
        (s.tc.state = .member → s.fe.rept = none → s.ru.touchOnLine = false → (∀ q ∈ s.ru.queue, q.onLine = false) →
          (s.ru.touchFlag = true →
            exec .frameTake s =
              .next (taken { s with ru := { s.ru with touchOnLine := true } } .touch (own .touch))) ∧
          (∀ q behind, s.ru.touchFlag = false → s.ru.queue = q :: behind →
            exec .frameTake s =
              .next (taken { s with ru := { s.ru with queue := { q with onLine := true } :: behind } } .request
                (own (match q.op with
                  | .claim z m => .claim z m
                  | .release z => .release z
                  | .touch => .touch
                  | .leave => .leave)))) ∧
          (s.ru.touchFlag = false → s.ru.queue = [] →
            (s.fe.copy = none → exec .frameTake s = .next s) ∧
            (s.fe.copy ≠ none → s.cu.phase = .head → s.cu.repNo = 0 →
              let recs := s.ztu.occupied
              let set := s.cu.streamSet ||| s.cu.waiting
              let body : List Byte :=
                s.cu.streamNo :: (wordBytes s.tc.turn ++ wordBytes s.tc.roster ++ wordBytes set ++
                  [BitVec.ofNat 8 (packParts recs).length, BitVec.ofNat 8 recs.length])
              exec .frameTake s =
                .next (taken
                  { s with
                    cu := { s.cu with
                      image := some { turn := s.tc.turn, recs := recs, headBody := body }
                      streamSet := set
                      waiting := 0
                      partCount := (packParts recs).length } }
                  .copy { payload := .copyHead body, repNo := 0, orig := s.self, turn := s.tc.turn })) ∧
            ∀ img : CopyImage, s.fe.copy ≠ none → s.cu.image = some img →
              (s.cu.phase = .head → s.cu.repNo ≠ 0 →
                exec .frameTake s =
                  .next (taken s .copy
                    { payload := .copyHead img.headBody, repNo := s.cu.repNo, orig := s.self, turn := img.turn })) ∧
              ∀ recs : List CopyRec, s.cu.phase = .parts → (packParts img.recs)[s.cu.partIndex]? = some recs →
                exec .frameTake s =
                  .next (taken s .copy
                    { payload := .copyPart (s.cu.streamNo :: BitVec.ofNat 8 s.cu.partIndex :: recs.flatMap CopyRec.bytes)
                      repNo := s.cu.repNo, orig := s.self, turn := img.turn })))))

/-- The sender's tests. ARBITRATION_LOST: a BIT0 of the first six bits found dominant at 1.5Q ends the attempt with no try
counted, the frame stays pending and the frame in reception is no longer the station's own. BIT_FAULT: every other failed
test drives the HALT at once, for 12Q from the point of the test, and a BIT0 after the arbitration field that stays dominant
posts DUPLICATE-SUSPECT first; a BIT1 is found so at 2.5Q and the OPEN at 5.5Q. A pulse that ends before its point is found
at its end, a dominant edge before 0.5Q at that edge, and damage where it is read. The pulse of a DATA_BIT or a DAMAGE meets
the same tests at the same points: a pulse past 1.5Q over an own BIT0 of the arbitration field is a loss, whatever the pulse
reads as. A pulse that does not start within the sender's own drive is a bit fault, of the OPEN as of a bit (R107, R147, R162,
R171 to R173). Where that fault is found is the model's choice, since Table 8.7-1 gives it no point: where the own drive ends,
as BIT_FAULT says or a quantum without a command finds, and at the pulse's beginning where the own bit was not asked for
(DESIGN CHOICE, log entry 29, with log entry 9). -/
def Obligations.SenderTests : Prop :=
  ∀ (s : State) (a : Attempt), s.pins.resetLow = false → s.fe.tx = some a → a.faulted = false →
    let halt : Option Drive := some { symbol := .haltSymbol, left := 480 }
    let faulted (h : Hp) (l : Lif) : State :=
      { s with hp := h, lif := { l with drive := halt }, fe := { s.fe with tx := some { a with faulted := true } } }
    let missed (l : Lif) : State := { s with lif := l, fe := { s.fe with tx := some a.missing } }
    let suspected : Hp := s.hp.post { kind := .duplicateSuspect, station := some s.self }
    (∀ r : Reception, s.fe.rx = some r →
      let lost (l : Lif) (hold : Bool) (rx : Option Reception) : State :=
        { s with
          lif := l.ownHalt
          fe := { s.fe with tx := none, rx := rx, hold := s.fe.hold || hold }
          ru := { s.ru with
            queue := s.ru.queue.map fun q => { q with onLine := false }
            touchOnLine := false } }
      let own (b : Bool) : Prop := a.bits[r.bits.length]? = some b
      let after : Check := if inCheckedBytes r.bits then crcBit r.crc true else r.crc
      (own false → s.startsWithin a (.bit false) 0 → r.bits.length < 6 →
        let ended : State := lost (s.lif.dominantTo 60) false (some { r with mark := false })
        exec .arbitrationLost s = .next ended ∧ exec (.bitFault .late) s = .next ended) ∧
      (own false → s.startsWithin a (.bit false) 0 → 6 ≤ r.bits.length →
        exec (.bitFault .late) s = .next (faulted suspected (s.lif.dominantTo 60))) ∧
      (own true → s.startsWithin a (.bit true) 0 →
        exec (.bitFault .late) s = .next (faulted s.hp (s.lif.dominantTo 100))) ∧
      (∀ b, own b →
        (∀ pulse len, Stretch.seen pulse = some len → len < (if b then 60 else 20) →
          s.startsWithin a (.bit b) 0 →
          exec (.bitFault (.early pulse)) s = .next (faulted s.hp (s.lif.dominantTo len))) ∧
        (s.lif.line = .busy .frame →
          ∀ gap g, Stretch.seen gap = some g →
            let runs : Prop := s.runsOut a (.bit b) (g - s.lif.lasted)
            (g < 20 → ¬ runs → exec (.bitFault (.edge gap)) s = .next (faulted s.hp (s.lif.gapHeard g))) ∧
            (g < 20 ∨ (60 < g ∧ g < 140) → ¬ runs →
              exec (.bitFault (.damaged (.stretch gap))) s = .next (faulted s.hp (s.lif.gapHeard g))) ∧
            ∀ pulse len, Stretch.seen pulse = some len → len < 20 ∨ (56 < len ∧ len < 64) →
              len ≤ (if b then 100 else 60) →
              (g < 20 ∨ (60 < g ∧ g < 140) → ¬ runs →
                exec (.bitFault (.damaged (.pulse gap pulse))) s = .next (faulted s.hp (s.lif.gapHeard g))) ∧
              (20 ≤ g → g ≤ 60 → s.startsWithin a (.bit b) (g - s.lif.lasted) →
                exec (.bitFault (.damaged (.pulse gap pulse))) s =
                  .next (faulted s.hp ((s.lif.gapHeard g).dominantTo len)))) ∧
        (a.driven ≤ r.bits.length →
          exec .arbitrationLost s = .next s ∧
          exec (.bitFault .late) s = .next (missed ((s.lif.haltAfter 0).dominantTo (if b then 100 else 60))) ∧
          ∀ pulse len, Stretch.seen pulse = some len → len < (if b then 60 else 20) →
            exec (.bitFault (.early pulse)) s = .next (missed ((s.lif.haltAfter 0).dominantTo len))) ∧
        (r.bits.length < a.driven → s.lif.line = .busy .frame → s.lif.low = false →
          ∀ left, s.lif.drive = some { symbol := .bit b, left := left } →
            exec (.bitFault .absent) s = .next (missed (s.lif.haltAfter left)) ∧
            ∀ gap g, Stretch.seen gap = some g → 60 < g → g < 140 → left ≤ g - s.lif.lasted →
              exec (.bitFault (.edge gap)) s = .next s ∧
              exec (.bitFault (.damaged (.stretch gap))) s = .next (missed ((s.lif.haltAfter left).gapHeard g)))) ∧
      ∀ (gap pulse : Stretch) (g len : Nat), Stretch.seen gap = some g → Stretch.seen pulse = some len →
        s.lif.line = .busy .frame → 20 ≤ g → g ≤ 60 → own false → s.startsWithin a (.bit false) (g - s.lif.lasted) →
        let l : Lif := s.lif.gapHeard g
        (64 ≤ len → len ≤ 104 →
          (r.bits.length < 6 →
            exec (.dataBit gap pulse) s =
              .next (lost (l.heard len) false (some { bits := r.bits ++ [true], crc := after, mark := false }))) ∧
          (6 ≤ r.bits.length →
            exec (.dataBit gap pulse) s =
              .next { faulted suspected l with
                lif := ({ l.dominantTo 60 with drive := halt } : Lif).heard len
                fe := { s.fe with
                  tx := some { a with faulted := true }
                  rx := some { bits := r.bits ++ [true], crc := after, mark := r.mark } } })) ∧
        ((60 < len ∧ len < 64) ∨ (104 < len ∧ len < 400) → r.bits.length < 6 → s.tc.state ≠ .founding →
          exec (.damage (.pulse gap pulse)) s =
            .next (lost { l.heard len with line := .unsynced } true none))) ∧
    (s.fe.rx = none → s.lif.line = .busy .pulse → s.startsWithin a .openSymbol 0 →
      exec (.bitFault .late) s = .next (faulted s.hp (s.lif.dominantTo 220)) ∧
      ∀ pulse len, Stretch.seen pulse = some len →
        (len < 180 → exec (.bitFault (.early pulse)) s = .next (faulted s.hp (s.lif.dominantTo len))) ∧
        ∀ gap g, Stretch.seen gap = some g → len < 160 →
          exec (.bitFault (.damaged (.pulse gap pulse))) s = .next (faulted s.hp (s.lif.dominantTo len))) ∧
    (s.fe.rx = none → s.lif.line = .busy .pulse → s.lif.low = false →
      ∀ left, s.lif.drive = some { symbol := .openSymbol, left := left } →
        exec (.bitFault .absent) s = .next (missed (s.lif.haltAfter left))) ∧
    ∀ (x : Symbol) (left : Nat), s.pending = [] → s.compares a x → s.runsOut a x 40 →
      s.lif.drive = some { symbol := x, left := left } → s.tc.waitTimer = none → s.cu.copyTimer = none →
      ∃ u, step s = .next u ∧ u.lif = (s.lif.haltAfter left).later (40 - left) ∧ u.fe.tx = some a.missing ∧
        u.fe.rx = s.fe.rx ∧ u.hp = s.hp

/-- HALT, a pulse of 10Q to less than 40Q: the halt-rest begins, the yield hold is set and a frame in reception is
discarded; of the drives the own HALT alone goes on. An attempt that sends no more, or whose OPEN or BIT1 is still compared
and then faulted by the same pulse, or whose next bit was not asked for, ends with a counted try at its source: the head
request, the internal TOUCH, the REPEAT, the copy frame, HAIL or JOIN, with what `State.tried` says of the eighth. An own
BIT0 that was asked for and that the same pulse finds dominant at 1.5Q is a loss in the arbitration field, with no try, after
which the frame is another station's, and posts DUPLICATE-SUSPECT with a counted try after it. Two
points are the model's: that an abandoned join clears the tries of the internal TOUCH with its flag (an inference, log entry
14), and that a pulse over a bit not asked for is a fault at its beginning, from where the own HALT counts (a choice, log
entry 29). A withdrawn frame's end goes to no source. In the roll window and the REST the roll is handed over as unreadable;
in STUCK a HALT is no more than a pulse. HALT_REST_END: after 6Q the line is IDLE and the yield timer starts when the hold
is set (R41, R58, R67, R81, R82, R107, R108, R121, R153, R156, R164, R167, R171, R173 to R175, R177, R179). -/
def Obligations.HaltsEndFramesAndAttempts : Prop :=
  (∀ (s : State) (pulse : Stretch) (len : Nat), s.pins.resetLow = false → Stretch.seen pulse = some len → 400 ≤ len →
    len < 1600 →
    let rests (l : Lif) : Lif := { (l.heard len).ownHalt with line := .busy .haltRest }
    let t : State :=
      { s with
        lif := rests s.lif
        fe := { s.fe with
          rx := none
          tx := none
          hold := true
          yieldTimer := if s.lif.line = .idle then none else s.fe.yieldTimer } }
    (s.lif.line = .stuck → exec (.halt pulse) s = .next { s with lif := s.lif.heard len }) ∧
    (s.lif.line = .busy .roll ∨ s.lif.line = .busy .rest → s.fe.tx = none → s.fe.rx = none →
      ∃ u, s.readsUnreadable u ∧
        exec (.halt pulse) s =
          .next { u with lif := rests s.lif, fe := { u.fe with hold := true, yieldTimer := s.fe.yieldTimer } }) ∧
    (s.lif.line ≠ .stuck → s.lif.line ≠ .busy .roll → s.lif.line ≠ .busy .rest →
      (∀ r, s.fe.tx = none → s.tc.state = .founding → s.fe.rx = some r → r.mark = false →
        exec (.halt pulse) s =
          .next { t with
            tc := { s.tc with state := .hailing }
            fe := { t.fe with hail := some 0, join := none }
            cu := { s.cu with log := [], logging := false } }) ∧
      ((s.tc.state = .founding → ∀ r, s.fe.rx = some r → r.mark = true) →
        (s.fe.tx = none → exec (.halt pulse) s = .next t) ∧
        (∀ a : Attempt, s.fe.tx = some a →
          (match s.fe.rx with
            | none => a.faulted = true ∨ s.lif.line ≠ .busy .pulse
            | some r => a.faulted = true ∨ a.bits.length ≤ r.bits.length) →
          (a.withdrawn = true → exec (.halt pulse) s = .next t) ∧
          (a.withdrawn = false → ∃ u, exec (.halt pulse) s = .next u ∧ t.tried a.source u)) ∧
        (∀ (a : Attempt) (point : Nat), s.fe.tx = some a → a.faulted = false → a.withdrawn = false →
          (s.fe.rx = none ∧ s.lif.line = .busy .pulse ∧ point = 220) ∨
            (∃ r, s.fe.rx = some r ∧ a.bits[r.bits.length]? = some true ∧ s.lif.line = .busy .frame ∧ point = 100) →
          (∀ x, s.compares a x → s.startsWithin a x 0) →
          let faulted : State := { t with lif := rests ((s.lif.dominantTo point).haltAfter 0) }
          ∃ u, exec (.halt pulse) s = .next u ∧ faulted.tried a.source u) ∧
        ∀ (a : Attempt) (r : Reception), s.fe.tx = some a → a.faulted = false → a.withdrawn = false →
          s.fe.rx = some r → s.lif.line = .busy .frame → r.bits.length < a.bits.length → a.driven ≤ r.bits.length →
          let missed : State := { t with lif := rests (s.lif.haltAfter 0) }
          ∃ u, exec (.halt pulse) s = .next u ∧ missed.tried a.source u) ∧
      ∀ (a : Attempt) (r : Reception), s.fe.tx = some a → a.faulted = false → s.fe.rx = some r →
        s.lif.line = .busy .frame → a.bits[r.bits.length]? = some false → s.startsWithin a (.bit false) 0 →
        let lost : State :=
          { t with
            ru := { s.ru with
              queue := s.ru.queue.map fun q => { q with onLine := false }
              touchOnLine := false } }
        let suspected : State :=
          { t with
            lif := rests ((s.lif.dominantTo 60).haltAfter 0)
            hp := s.hp.post { kind := .duplicateSuspect, station := some s.self } }
        (r.bits.length < 6 → s.tc.state ≠ .founding → exec (.halt pulse) s = .next lost) ∧
        (r.bits.length < 6 → s.tc.state = .founding →
          exec (.halt pulse) s =
            .next { lost with
              tc := { s.tc with state := .hailing }
              fe := { lost.fe with hail := some 0, join := none }
              cu := { s.cu with log := [], logging := false } }) ∧
        (6 ≤ r.bits.length → (s.tc.state = .founding → r.mark = true) →
          (a.withdrawn = true → exec (.halt pulse) s = .next suspected) ∧
          (a.withdrawn = false → ∃ u, exec (.halt pulse) s = .next u ∧ suspected.tried a.source u)))) ∧
  ∀ s : State, s.pins.resetLow = false → s.lif.line = .busy .haltRest → s.lif.low = false →
    (∀ a, s.fe.tx = some a → a.faulted = false) →
    exec .haltRestEnd s =
      .next { s with
        lif := { s.lif.later (240 - s.lif.lasted) with line := .idle }
        fe := { s.fe with yieldTimer := if s.fe.hold then some 0 else none } }

/-- DAMAGE: a stretch or a pulse that has no place in a frame discards the frame in reception and leaves the line UNSYNCED,
and so does a pulse where a frame may begin that begins none; in the REST it cuts the roll short, which is handed over as
unreadable. A sender that still compares finds a bit fault in it and drives its HALT. After a stretch that reads damage the
pulse is one of UNSYNCED: of OPEN length it begins a frame, of HALT length the halt-rest. SYNC_QUIET: 48Q of quiet make an
UNSYNCED line IDLE. QUIET_COUNT_RESET: a pulse that neither synchronises nor clears the line starts the count again, and so
does the end of a level that stood dominant at a reset, however short it was (R145, R148, R149, R152 to R154, R156, R164,
R167, R172, R173, R177). Five points are the model's: a level that stands at a reset is the filtered level from there (an
inference, log entry 1), damage with no frame in reception sets no hold (an inference, log entry 11), damage after the own
last check bit is a bit fault (a choice, log entry 27), a DAMAGE may come in IDLE with no edge reported before (an
inference, log entry 10), and SYNC_QUIET acts whatever the count (a choice, log entry 3). -/
def Obligations.DamageAndResynchronisation : Prop :=
  (∀ s : State, s.pins.resetLow = false → (s.tc.state = .founding → ∀ r, s.fe.rx = some r → r.mark = true) →
    let hit (l : Lif) : State :=
      { s with
        lif := { l with line := .unsynced }
        fe := { s.fe with
          rx := none
          hold := s.fe.hold || s.fe.rx.isSome
          yieldTimer := if s.lif.line = .idle then none else s.fe.yieldTimer } }
    let halted (l : Lif) : Lif := { l with drive := some { symbol := .haltSymbol, left := 480 } }
    let still : Prop := ∀ a, s.fe.tx = some a → a.faulted = true
    let damages (c : Instr) (l : Lif) (compared : Attempt → Prop) : Prop :=
      (still → exec c s = .next (hit l)) ∧
      ∀ a, s.fe.tx = some a → a.faulted = false → compared a →
        exec c s =
          .next { hit (halted l) with fe := { (hit l).fe with tx := some { a with faulted := true } } }
    (∀ gap g, Stretch.seen gap = some g → s.lif.line = .busy .frame → g < 20 ∨ (60 < g ∧ g < 140) →
      damages (.damage (.stretch gap)) (s.lif.gapHeard g) fun a =>
        ∀ x, s.compares a x → ¬ s.runsOut a x (g - s.lif.lasted)) ∧
    ∀ (gap pulse : Stretch) (g len : Nat), Stretch.seen gap = some g → Stretch.seen pulse = some len →
      let early (t : Nat) (a : Attempt) : Prop :=
        (∀ x, s.compares a x → s.startsWithin a x t) ∧
          match s.fe.rx with
          | none => len ≤ 220
          | some r => ∀ b, a.bits[r.bits.length]? = some b → len ≤ (if b then 100 else 60)
      (s.lif.line = .busy .frame → 20 ≤ g → g ≤ 60 →
        (5 ≤ len ∧ len < 20) ∨ (56 < len ∧ len < 64) ∨ (104 < len ∧ len < 400) →
        damages (.damage (.pulse gap pulse)) ((s.lif.gapHeard g).heard len) (early (g - s.lif.lasted))) ∧
      (s.lif.line = .idle ∨ s.lif.line = .busy .pulse ∨ s.lif.line = .busy .haltRest →
        (5 ≤ len ∧ len < 160) ∨ (240 < len ∧ len < 400) →
        damages (.damage (.pulse gap pulse)) (s.lif.heard len) (early 0)) ∧
      (s.lif.line = .busy .rest → s.fe.tx = none → s.fe.rx = none → (5 ≤ len ∧ len < 160) ∨ (240 < len ∧ len < 400) →
        ∃ u, s.readsUnreadable u ∧
          exec (.damage (.pulse gap pulse)) s =
            .next { u with
              lif := { s.lif.heard len with line := .unsynced }
              fe := { u.fe with yieldTimer := s.fe.yieldTimer } }) ∧
      (s.lif.line = .busy .frame → still → g < 20 ∨ (60 < g ∧ g < 140) →
        let edge : State := hit (s.lif.gapHeard g)
        ((5 ≤ len ∧ len < 160) ∨ (240 < len ∧ len < 400) →
          exec (.damage (.pulse gap pulse)) s = .next { edge with lif := edge.lif.heard len }) ∧
        (160 ≤ len → len ≤ 240 →
          exec (.damage (.pulse gap pulse)) s =
            .next { edge with
              lif := { edge.lif.heard len with line := .busy .frame }
              fe := { edge.fe with rx := some { bits := [], crc := 0xFFFF#16, mark := false } } }) ∧
        (400 ≤ len → len < 1600 → s.fe.tx = none →
          exec (.damage (.pulse gap pulse)) s =
            .next { edge with
              lif := { (edge.lif.heard len).ownHalt with line := .busy .haltRest }
              fe := { edge.fe with hold := true } }))) ∧
  (∀ s : State, s.pins.resetLow = false → s.lif.line = .unsynced → s.lif.low = false →
    (∀ a, s.fe.tx = some a → a.faulted = false) →
    exec .syncQuiet s =
      .next { s with
        lif := { s.lif.later (1920 - s.lif.lasted) with line := .idle }
        fe := { s.fe with yieldTimer := if s.fe.hold then some 0 else none } }) ∧
  (∀ (s : State) (pulse : Stretch) (len : Nat), s.pins.resetLow = false → Stretch.seen pulse = some len →
    (s.lif.line = .unsynced ∧ ((5 ≤ len ∧ len < 160) ∨ (240 < len ∧ len < 400))) ∨ (s.lif.line = .stuck ∧ 5 ≤ len) →
    exec (.quietCountReset pulse) s = .next { s with lif := s.lif.heard len }) ∧
  ∀ (s : State) (pulse : Stretch) (len : Nat), s.pins.resetLow = false → s.lif.line = .unsynced → s.lif.low = true →
    Stretch.running pulse = some len → len < 160 ∨ (240 < len ∧ len < 400) →
    exec (.quietCountReset pulse) s = .next { s with lif := s.lif.heard len }

/-- LINE_STUCK, 40Q of dominant: LTX is released, LINE-STUCK is posted and the line is STUCK; a frame in reception is
discarded with the yield hold set, and a FOUNDING station that was not its sender returns to HAILING with a new HAIL. An
attempt ends with a counted try at its source: the head request, the internal TOUCH, the REPEAT, the copy frame, HAIL or
JOIN, with what `State.tried` says of the eighth; a withdrawn frame's end goes to no source. An own BIT0 that the same
stretch finds dominant at 1.5Q is a loss in the arbitration field, and posts DUPLICATE-SUSPECT after it; one that was not
asked for does neither. In the roll window
and the REST the roll is handed over as unreadable. In STUCK it is the same episode. LINE_CLEAR: LINE-CLEAR is posted, the
yield hold is set, the line is IDLE and the yield timer starts. While the line stays dominant, no quantum clears it (R58,
R107, R155 to R157, R164, R167, R171, R173 to R175, R177, R178). Five points are the model's: a pulse over a bit not asked
for is a fault at its beginning (a choice, log entry 29), a LINE_STUCK with no frame in
reception sets no hold (an inference, log entry 11), an abandoned join clears the tries of the internal TOUCH (an inference,
log entry 14), the notices of the attempt's end stand before LINE-STUCK (an inference, log entry 17), and a LINE_CLEAR is
carried out whatever the count of quiet (a choice, log entry 3). -/
def Obligations.StuckAndClear : Prop :=
  ∀ s : State, s.pins.resetLow = false →
    let stuck : Lif := { s.lif.dominantTo 1600 with line := .stuck, drive := none }
    let posted (u : State) : State := { u with hp := u.hp.post { kind := .lineStuck } }
    (s.lif.line ≠ .stuck → s.lif.line ≠ .busy .roll → s.lif.line ≠ .busy .rest →
      let t : State :=
        { s with
          lif := stuck
          fe := { s.fe with
            rx := none
            tx := none
            hold := s.fe.hold || s.fe.rx.isSome
            yieldTimer := if s.lif.line = .idle then none else s.fe.yieldTimer } }
      (∀ r, s.fe.tx = none → s.tc.state = .founding → s.fe.rx = some r → r.mark = false →
        exec .lineStuck s =
          .next (posted { t with
            tc := { s.tc with state := .hailing }
            fe := { t.fe with hail := some 0, join := none }
            cu := { s.cu with log := [], logging := false } })) ∧
      ((s.tc.state = .founding → ∀ r, s.fe.rx = some r → r.mark = true) →
        (s.fe.tx = none → exec .lineStuck s = .next (posted t)) ∧
        ∀ a : Attempt, s.fe.tx = some a →
          ((∀ r, s.fe.rx = some r →
              a.faulted = true ∨ a.bits[r.bits.length]? ≠ some false ∨ a.driven ≤ r.bits.length) →
            (a.withdrawn = true → exec .lineStuck s = .next (posted t)) ∧
            (a.withdrawn = false → ∃ u, t.tried a.source u ∧ exec .lineStuck s = .next (posted u))) ∧
          ∀ r, s.fe.rx = some r → a.faulted = false → a.bits[r.bits.length]? = some false →
            s.startsWithin a (.bit false) 0 →
            (6 ≤ r.bits.length → a.withdrawn = false →
              ∃ u, { t with hp := s.hp.post { kind := .duplicateSuspect, station := some s.self } }.tried a.source u ∧
                exec .lineStuck s = .next (posted u)) ∧
            (r.bits.length < 6 → s.tc.state ≠ .founding →
              exec .lineStuck s =
                .next (posted { t with
                  ru := { s.ru with
                    queue := s.ru.queue.map fun q => { q with onLine := false }
                    touchOnLine := false } })))) ∧
    (s.lif.line = .busy .roll ∨ s.lif.line = .busy .rest → s.fe.tx = none → s.fe.rx = none →
      ∃ u, s.readsUnreadable u ∧
        exec .lineStuck s =
          .next { u with
            lif := stuck
            fe := { u.fe with yieldTimer := s.fe.yieldTimer }
            hp := u.hp.post { kind := .lineStuck } }) ∧
    (s.lif.line = .stuck →
      exec .lineStuck s = .next { s with lif := s.lif.dominantTo 1600 } ∧
      ((∀ a, s.fe.tx = some a → a.faulted = false) →
        exec .lineClear s =
          .next { s with
            lif :=
              { s.lif.later (if s.lif.low then 1920 else 1920 - s.lif.lasted) with
                line := .idle
                low := false
                lasted := if s.lif.low then 1920 else max s.lif.lasted 1920 }
            fe := { s.fe with hold := true, yieldTimer := some 0 }
            hp := s.hp.post { kind := .lineClear } }) ∧
      (s.pending = [] → s.lif.low = true → ∃ t, step s = .next t ∧ t.lif = s.lif.later 40))

/-- WAIT_PROBE_RUN_OUT: the touch flag is set and the wait-probe timer stopped. COPY_TIMER_EXPIRY: COPY-RESTART is posted
with the awaited source and TIMEOUT, the requester side is cleared, the table and the records are discarded, and the
station is HAILING with a new HAIL (R50, R92, R97). A quantum without a command, which is the model's step on an empty queue
(DESIGN CHOICE, log entry 3), counts every timer and the level on LRX on by one quantum, and what comes to its limit in it has
the effect of its own command: the wait-probe timer at the wait limit times 4096Q (R49), the copy timer at 4096Q (R92), the
yield timer in IDLE with the hold set at 6Q (R167), the quiet of an UNSYNCED or STUCK line at 48Q (R154, R156), and a dominant
level outside STUCK at 40Q (R155). Below every limit nothing else comes about. Where a limit of the line and one of a timer
are reached in one quantum either may be taken first (log entry 4), and of that and of both timers together the clauses say
nothing. -/
def Obligations.TimersExpire : Prop :=
  (∀ s : State, s.pins.resetLow = false → s.tc.waitTimer ≠ none →
    exec .waitProbeRunOut s =
      .next { s with ru := { s.ru with touchFlag := true }, tc := { s.tc with waitTimer := none } }) ∧
  (∀ s : State, s.pins.resetLow = false → s.cu.copyTimer ≠ none → s.fe.tx = none →
    ∃ t, exec .copyTimerExpiry s = .next t ∧ s.restartsTo [] .timeout t) ∧
  ∀ s : State, s.pins.resetLow = false → s.pending = [] →
    (∀ a x, s.fe.tx = some a → a.faulted = false → s.compares a x → ¬ s.runsOut a x 40) →
    let counted : State :=
      { s with
        lif := s.lif.later 40
        fe := { s.fe with yieldTimer := s.fe.yieldTimer.map (· + 1) }
        tc := { s.tc with waitTimer := s.tc.waitTimer.map (· + 1) }
        cu := { s.cu with copyTimer := s.cu.copyTimer.map (· + 1) } }
    let waitEnds : Prop := ∃ n, s.tc.waitTimer = some n ∧ s.hp.waitLimit.toNat * 4096 ≤ n + 1
    let copyEnds : Prop := ∃ n, s.cu.copyTimer = some n ∧ 4096 ≤ n + 1
    let stuckEnds : Prop := s.lif.low = true ∧ s.lif.line ≠ .stuck ∧ 1600 ≤ s.lif.lasted + 40
    let quietEnds (line : LineState) : Prop := s.lif.low = false ∧ s.lif.line = line ∧ 1920 ≤ s.lif.lasted + 40
    let yieldEnds : Prop :=
      s.lif.low = false ∧ s.lif.line = .idle ∧ s.fe.hold = true ∧ ∃ n, s.fe.yieldTimer = some n ∧ 6 ≤ n + 1
    (¬ stuckEnds → ¬ quietEnds .unsynced → ¬ quietEnds .stuck → ¬ yieldEnds →
      (¬ waitEnds → ¬ copyEnds → step s = .next counted) ∧
      (waitEnds → ¬ copyEnds → step s = exec .waitProbeRunOut counted) ∧
      (copyEnds → ¬ waitEnds → step s = exec .copyTimerExpiry counted)) ∧
    (¬ waitEnds → ¬ copyEnds →
      (stuckEnds → step s = exec .lineStuck counted) ∧
      (quietEnds .unsynced → step s = exec .syncQuiet counted) ∧
      (quietEnds .stuck → step s = exec .lineClear counted) ∧
      (yieldEnds → step s = exec .yieldLapse counted))

/-! ### Code tables and layouts -/

/-- The code tables: the shared codes of frame kinds, zone states, tickets, stations and the line (R181, Table 9.1-1), the
options byte, the reply codes and the notice kinds (R193, R194, R198), the outcome and reason codes (R199, Table 9.5-4), and
the waiting entry byte: bits 7 to 4 hold the station, bits 3 to 1 are 0, bit 0 is 1 for SHARED (R189). -/
def Obligations.CodeTables : Prop :=
  [FrameKind.claim, .release, .touch, .join, .leave, .copyHead, .copyPart, .hail].map (fun k => k.code.toNat) =
    [1, 2, 3, 4, 5, 8, 9, 12] ∧
  [ZoneState.free, .exclusive, .shared].map (fun z => z.code.toNat) = [0, 1, 2] ∧
  (∀ tag m, [Ticket.none, .waiting tag m, .holding tag m].map (fun t => t.code.toNat) = [0, 1, 2]) ∧
  [StationState.offline, .hailing, .founding, .copying, .joining, .member, .leaving].map (fun k => k.code.toNat) =
    [0, 1, 2, 3, 4, 5, 6] ∧
  (∀ p, [LineState.unsynced, .idle, .busy p, .stuck].map (fun l => l.code.toNat) = [0, 1, 2, 3]) ∧
  (∀ rejoin peers : Bool, ∀ i : Fin 8,
    (optionsByte rejoin peers).getLsbD i.val = (if i.val = 0 then rejoin else if i.val = 1 then peers else false)) ∧
  [ReplyCode.ok, .full, .state, .zone, .tag, .busyZone, .inFlight, .unknownTag, .empty, .badCommand,
      .badOperand].map ReplyCode.byte =
    [0x01#8, 0x02#8, 0x03#8, 0x04#8, 0x05#8, 0x06#8, 0x07#8, 0x08#8, 0x09#8, 0x0E#8, 0x0F#8] ∧
  [NoticeKind.ready, .outcome, .granted, .lost, .cancelled, .sendFailed, .founded, .joined, .left, .lagged,
      .copyRestart, .peerJoined, .peerLeft, .peerEvicted, .lineStuck, .lineClear, .duplicateSuspect].map
      NoticeKind.code =
    [0x01#8, 0x02#8, 0x03#8, 0x04#8, 0x05#8, 0x06#8, 0x07#8, 0x08#8, 0x09#8, 0x0A#8, 0x0B#8, 0x0C#8, 0x0D#8, 0x0E#8,
      0x0F#8, 0x10#8, 0x11#8] ∧
  [EditOutcome.granted, .queued, .refusedHeld, .refusedWaiting, .refusedPool, .released, .withdrawn, .refusedNotHeld,
      .done].map (fun o => (Reason.outcome o).code) =
    [0x01#8, 0x02#8, 0x03#8, 0x04#8, 0x05#8, 0x07#8, 0x08#8, 0x09#8, 0x0A#8].map some ∧
  (Reason.outcome .refusedNotMember).code = none ∧
  [Reason.lagged .gap, .lagged .selfEvicted, .lagged .staleSelf, .lagged .rollUnreadable, .copy .timeout,
      .copy .logFull, .copy .logGap, .copy .partMissed, .lag, .abandoned, .pinReset, .softReset, .frame .claim,
      .frame .release, .frame .touch, .frame .join, .frame .leave, .frame .hail].map Reason.code =
    [0x20#8, 0x21#8, 0x22#8, 0x23#8, 0x30#8, 0x31#8, 0x32#8, 0x33#8, 0x40#8, 0x42#8, 0x50#8, 0x51#8, 0x61#8, 0x62#8,
      0x63#8, 0x64#8, 0x65#8, 0x6C#8].map some ∧
  ∀ w : Waiting,
    w.byte.extractLsb' 4 4 = BitVec.ofNat 4 w.station.val ∧ w.byte.extractLsb' 1 3 = 0 ∧
      w.byte.getLsbD 0 = (match w.mode with | .exclusive => false | .shared => true)

/-- The bytes of a frame: byte 0 holds class, rank and repeat number, byte 1 kind and originator, byte 2 the body's
length, then the turn, the body and the check over bytes 1 to 4 + L (R161, R182). The check does not read byte 0. -/
def Obligations.FrameLayout : Prop :=
  (∀ f : Frame,
    f.bytes =
      (f.cls ++ BitVec.ofNat 4 (15 - f.orig.val) ++ BitVec.ofNat 2 f.repNo.val : Byte) ::
        (([f.payload.kind.code ++ BitVec.ofNat 4 f.orig.val, BitVec.ofNat 8 f.payload.body.length,
            f.turn.extractLsb' 8 8, f.turn.extractLsb' 0 8] ++ f.payload.body) ++
          [f.check.extractLsb' 8 8, f.check.extractLsb' 0 8])) ∧
  (∀ f : Frame, f.check = crcBytes ((f.bytes.drop 1).take (4 + f.payload.body.length))) ∧
  ∀ (f : Frame) (n : Fin 4), ({ f with repNo := n } : Frame).check = f.check

/-- A well-formed frame sent bit by bit is received as itself: from an empty frame in reception, its bits pushed one
after another are accepted at the CLOSE as that frame (R159 to R163, R182 to R185). -/
def Obligations.SentFramesAreAccepted : Prop :=
  ∀ (f : Frame) (mark : Bool),
    (match f.payload with
      | .order _ => True
      | .copyHead body => body.length = 9
      | .copyPart body => 6 ≤ body.length ∧ body.length ≤ 24
      | .hail => True) →
    let r := f.bits.foldl Reception.push (Reception.start mark)
    r.bits = f.bits ∧ r.mark = mark ∧ acceptFrame r.bits r.crc = some f

/-- What the CLOSE accepts is well-formed: its rank, kind, repeat number, body length, zone and mode are those its class
and kind admit, and the bits received are its own (R163, Table 8.3-1). The bits of byte 0's repeat number of a HAIL are
not examined, and are kept as received. -/
def Obligations.AcceptedFramesAreWhatWasReceived : Prop :=
  ∀ (bits : List Bool) (f : Frame), acceptFrame bits (crcBits 0xFFFF#16 ((bits.drop 8).take (bits.length - 24))) = some f →
    f.bits = bits ∧ f.payload.body.length ≤ 24

/-- A host command's bytes are taken as that command at its last byte and at no byte before it (R124, R192). -/
def Obligations.HostCommandsAreTakenWhole : Prop :=
  ∀ c : HostCmd, (∀ code, c = .bad code → operandCount code = none) →
    hostCmdOf c.bytes = some c ∧ ∀ n, n < c.bytes.length → hostCmdOf (c.bytes.take n) = none

/-- The parts of a snapshot: the records in their order, cut greedily into parts of at most 22 bytes (R78). The bytes of
a part's records are read back as those records (R90, R188 to R190). -/
def Obligations.SnapshotsAreCutAndReadBack : Prop :=
  (∀ recs : List CopyRec, (∀ r ∈ recs, r.queue.length ≤ 16) →
    (packParts recs).flatten = recs ∧
    (∀ p ∈ packParts recs, p ≠ [] ∧ (p.map CopyRec.size).sum ≤ 22) ∧
    ∀ (ahead behind : List (List CopyRec)) (p q : List CopyRec) (r : CopyRec) (rest : List CopyRec),
      packParts recs = ahead ++ p :: q :: behind → q = r :: rest → 22 < (p.map CopyRec.size).sum + r.size) ∧
  ∀ recs : List CopyRec, (∀ r ∈ recs, r.queue.length ≤ 31) → readRecs (recs.flatMap CopyRec.bytes) = some recs

/-! ### The zone table -/

/-- The advance of a zone (R6): the entries granted are the head of the queue, each compatible with the state that stood
when it was examined; they become holders, the state is that of the last one granted, each goes back to the pool, and
the entry left at the head is not compatible. A FREE zone admits either mode, a SHARED one a SHARED entry, an EXCLUSIVE
one none (Table 1.3-1). No other zone changes. -/
def Obligations.AdvanceGrantsFromTheHead : Prop :=
  (∀ (st : ZoneState) (m : Mode), compatible st m = true ↔ st = .free ∨ (st = .shared ∧ m = .shared)) ∧
  ∀ (t : Ztu) (z : Zone),
    let r := t.zone z
    let start : ZoneState := if r.holders = 0 then .free else r.state
    let after (given : List Waiting) : ZoneState := (given.getLast?.map fun w => w.mode.zoneState).getD start
    ∃ given left : List Waiting,
      r.queue = given ++ left ∧
      (∀ ahead w behind, given = ahead ++ w :: behind → compatible (after ahead) w.mode = true) ∧
      (∀ w, left.head? = some w → compatible (after given) w.mode = false) ∧
      (t.advance z).1.zone z =
        { state := after given, holders := given.foldl (fun h w => StationSet.add h w.station) r.holders,
          queue := left } ∧
      (t.advance z).1.free = t.free + given.length ∧
      (t.advance z).2 = given.map (fun w => { zone := z, entry := w }) ∧
      ∀ y : Zone, y ≠ z → (t.advance z).1.zone y = t.zone y

/-- The edits that leave the table unchanged. A CLAIM of a station already present in the zone is refused, whatever its
mode: REFUSED-HELD for a holder, REFUSED-WAITING for a waiting station (R12). A RELEASE by a station in neither the
holder set nor the queue is REFUSED-NOT-HELD, and in a lawful table a station outside the roster always takes this path,
with the foreign flag (R17). A TOUCH is DONE, with the foreign flag from outside the roster (R18). No advance runs. -/
def Obligations.EditsThatChangeNothing : Prop :=
  (∀ (t : Ztu) (roster : StationSet) (k self : Station) (z : Zone) (m : Mode), StationSet.has roster k = true →
    (StationSet.has (t.zone z).holders k = true →
      t.apply roster k self (.claim z m) =
        { ztu := t, roster := roster, outcome := .refusedHeld, foreign := false, grants := [], removals := [],
          left := 0 }) ∧
    (StationSet.has (t.zone z).holders k = false → (∃ w ∈ (t.zone z).queue, w.station = k) →
      t.apply roster k self (.claim z m) =
        { ztu := t, roster := roster, outcome := .refusedWaiting, foreign := false, grants := [], removals := [],
          left := 0 })) ∧
  (∀ (t : Ztu) (roster : StationSet) (k self : Station) (z : Zone), StationSet.has (t.zone z).holders k = false →
    (∀ w ∈ (t.zone z).queue, w.station ≠ k) →
    t.apply roster k self (.release z) =
      { ztu := t, roster := roster, outcome := .refusedNotHeld, foreign := !StationSet.has roster k, grants := [],
        removals := [], left := 0 }) ∧
  (∀ (s : State) (k : Station) (z : Zone), s.tableLaw → StationSet.has s.tc.roster k = false →
    (s.ztu.apply s.tc.roster k s.self (.release z)).outcome = .refusedNotHeld ∧
      (s.ztu.apply s.tc.roster k s.self (.release z)).foreign = true) ∧
  ∀ (t : Ztu) (roster : StationSet) (k self : Station),
    t.apply roster k self .touch =
      { ztu := t, roster := roster, outcome := .done, foreign := !StationSet.has roster k, grants := [],
        removals := [], left := 0 }

/-- A CLAIM of a member not present in the zone: granted at once on a FREE zone, or SHARED on a SHARED zone with an empty
queue; otherwise queued at the tail with one pool entry taken, or refused with REFUSED-POOL and the table unchanged when
the pool is empty. The record meets the law of R2. A CLAIM from outside the roster is REFUSED-NOT-MEMBER with the
foreign flag (R11, R13, R14, Table 1.5-1). -/
def Obligations.ClaimDecision : Prop :=
  ∀ (t : Ztu) (roster : StationSet) (k self : Station) (z : Zone) (m : Mode),
    let r := t.zone z
    (StationSet.has roster k = false →
      t.apply roster k self (.claim z m) =
        { ztu := t, roster := roster, outcome := .refusedNotMember, foreign := true, grants := [], removals := [],
          left := 0 }) ∧
    (StationSet.has roster k = true → r.stateLaw → StationSet.has r.holders k = false →
      (∀ w ∈ r.queue, w.station ≠ k) →
      let direct : Prop := r.state = .free ∨ (r.state = .shared ∧ r.queue = [] ∧ m = .shared)
      (direct →
        t.apply roster k self (.claim z m) =
          { ztu := t.setZone z { state := m.zoneState, holders := StationSet.add r.holders k, queue := r.queue },
            roster := roster, outcome := .granted, foreign := false, grants := [], removals := [], left := 0 }) ∧
      (¬ direct → t.free ≠ 0 →
        t.apply roster k self (.claim z m) =
          { ztu := { t.setZone z { r with queue := r.queue ++ [{ station := k, mode := m }] } with free := t.free - 1 },
            roster := roster, outcome := .queued, foreign := false, grants := [], removals := [], left := 0 }) ∧
      (¬ direct → t.free = 0 →
        t.apply roster k self (.claim z m) =
          { ztu := t, roster := roster, outcome := .refusedPool, foreign := false, grants := [], removals := [],
            left := 0 }))

/-- A RELEASE by a holder takes it out of the holder set, and one by a waiting station takes its entry out of the queue
and gives it back to the pool; then the zone's advance runs, whose grants the report lists (R15, R16). -/
def Obligations.ReleaseGivesUpTheStanding : Prop :=
  ∀ (t : Ztu) (roster : StationSet) (k self : Station) (z : Zone), (t.zone z).apart →
    (StationSet.has (t.zone z).holders k = true →
      let a := (t.setZone z { t.zone z with holders := StationSet.del (t.zone z).holders k }).advance z
      t.apply roster k self (.release z) =
        { ztu := a.1, roster := roster, outcome := .released, foreign := !StationSet.has roster k, grants := a.2,
          removals := [], left := 0 }) ∧
    ∀ ahead behind w, (t.zone z).queue = ahead ++ w :: behind → w.station = k →
      let a := ({ t.setZone z { t.zone z with queue := ahead ++ behind } with free := t.free + 1 } : Ztu).advance z
      t.apply roster k self (.release z) =
        { ztu := a.1, roster := roster, outcome := .withdrawn, foreign := !StationSet.has roster k, grants := a.2,
          removals := [], left := 0 }

/-- The removal procedure on a lawful table: the set leaves the roster, every queue and every holder set; a station outside
the set holds a zone after it if it held it before or is granted its entry there; the other waiting entries keep their order
or are granted, and what stays is lawful and keeps the pool's sum (R4, R19 to R21). -/
def Obligations.RemovalTakesTheSetOut : Prop :=
  ∀ (s : State) (e : StationSet), s.tableLaw → s.poolLaw →
    let r := s.ztu.remove s.tc.roster e s.self
    r.roster = s.tc.roster &&& ~~~e ∧ r.left = s.tc.roster &&& e ∧
    r.ztu.inUse + r.ztu.free = 96 ∧
    ∀ z : Zone,
      (r.ztu.zone z).apart ∧ (r.ztu.zone z).stateLaw ∧ (r.ztu.zone z).known r.roster ∧
      (∀ k : Station, StationSet.has e k = true →
        StationSet.has (r.ztu.zone z).holders k = false ∧ ∀ w ∈ (r.ztu.zone z).queue, w.station ≠ k) ∧
      ∃ given : List Waiting,
        ((s.ztu.zone z).queue.filter fun w => !StationSet.has e w.station) = given ++ (r.ztu.zone z).queue ∧
        (r.grants.filter fun g => g.zone == z) = (given.map fun w => { zone := z, entry := w }) ∧
        ∀ k : Station, StationSet.has e k = false →
          (StationSet.has (r.ztu.zone z).holders k = true ↔
            StationSet.has (s.ztu.zone z).holders k = true ∨ ∃ w ∈ given, w.station = k)

/-- A JOIN first removes its originator when the roster holds it, then adds it to the roster; the foreign flag is not set
and the originator holds nothing and waits for nothing (R24). -/
def Obligations.JoinReadmits : Prop :=
  ∀ (s : State) (k : Station), s.tableLaw →
    let e := s.ztu.apply s.tc.roster k s.self .join
    e.outcome = .done ∧ e.foreign = false ∧ e.roster = StationSet.add s.tc.roster k ∧
    (StationSet.has s.tc.roster k = false → e.ztu = s.ztu ∧ e.grants = []) ∧
    (StationSet.has s.tc.roster k = true →
      e.ztu = (s.ztu.remove s.tc.roster (StationSet.one k) s.self).ztu ∧
        e.grants = (s.ztu.remove s.tc.roster (StationSet.one k) s.self).grants) ∧
    ∀ z : Zone, StationSet.has (e.ztu.zone z).holders k = false ∧ ∀ w ∈ (e.ztu.zone z).queue, w.station ≠ k

/-- The install. The Zone Table Unit accepts the images that pass the six checks of R27, and no others. An accepted image
becomes the table: every zone a record names takes the record's state, holders and queue, every other zone is FREE, and the
pool holds 96 less the image's waiting entries. FRAME_CLOSE of the final part installs it: refused, the copy fails with
PART-MISSED; accepted, the roster and T come from the head and the log is replayed, and the station is JOINING with a JOIN
pending, at the snapshot turn plus one for each entry. A replayed entry is applied; with its closure taken, the stations its
roll lacks are removed, and an unreadable roll or one that lacks the own station fails the copy with LOG-GAP, as an entry of
the own number does after DUPLICATE-SUSPECT. A head with no part, whether no stream or another one is recorded, prunes the log
and installs the empty image (R27, R61, R88, R91, R93 to R97). -/
def Obligations.InstallMakesTheImageTheTable : Prop :=
  (∀ (roster : StationSet) (occupied : Nat) (recs : List CopyRec),
    imageAccepted roster occupied recs = true ↔
      recs.Pairwise (fun a b => a.zone.toNat < b.zone.toNat) ∧ recs.length = occupied ∧
        (∀ c ∈ recs, c.zone.toNat < 64 ∧ ∃ st : ZoneState, ((c.code = 1 ∧ st = .exclusive) ∨ (c.code = 2 ∧ st = .shared)) ∧
          let r : ZoneRec := { state := st, holders := c.holders, queue := c.queue }
          r.apart ∧ r.stateLaw ∧ r.known roster) ∧
        (recs.map fun c => c.queue.length).sum ≤ 96) ∧
  (∀ (roster : StationSet) (occupied : Nat) (recs : List CopyRec), imageAccepted roster occupied recs = true →
    (∀ c ∈ recs, ∀ z : Zone, z.val = c.zone.toNat →
      (Ztu.ofImage recs).zone z =
        { state := if c.code = 1 then .exclusive else .shared, holders := c.holders, queue := c.queue }) ∧
    (∀ z : Zone, (∀ c ∈ recs, c.zone.toNat ≠ z.val) →
      (Ztu.ofImage recs).zone z = { state := .free, holders := 0, queue := [] }) ∧
    (Ztu.ofImage recs).inUse + (Ztu.ofImage recs).free = 96) ∧
  ∀ (s : State) (f : Frame), s.receives f → s.noClosure → s.tc.state = .copying → s.cu.awaited = some f.orig →
    let joins (ztu : Ztu) (turn : Turn) (last : Option LastApplied) (roster : StationSet)
        (closure : Option ClosureRecord) : State :=
      { s.atClose with
        ztu := ztu
        tc := { s.tc with state := .joining, turn := turn, lastApplied := last, roster := roster, closure := closure }
        fe := { s.atClose.fe with join := some 0, slotRequest := true }
        cu := { s.cu with
          log := [], logging := false, awaited := none, stream := none, build := none, copyTimer := none } }
    let fails (before : List Notice) (why : CopyReason) : Prop :=
      ∃ t, exec .frameClose s = .next t ∧ s.atClose.restartsTo before why t
    (∀ (number : Byte) (snap : Turn) (roster requesters : StationSet),
      f.payload = .copyHead (number :: (wordBytes snap ++ wordBytes roster ++ wordBytes requesters ++ [0, 0])) →
      StationSet.has requesters s.self = true → (∀ st, s.cu.stream = some st → st.number ≠ number) →
      (∀ e ∈ s.cu.log, 1 ≤ (snap - e.turn).toNat ∧ (snap - e.turn).toNat ≤ 32767) →
      exec .frameClose s = .next (joins (Ztu.ofImage []) snap none roster none)) ∧
    ∀ (number index : Byte) (st : ReqStream) (had recs : List CopyRec),
      f.payload = .copyPart (number :: index :: recs.flatMap CopyRec.bytes) → (∀ r ∈ recs, r.queue.length ≤ 31) →
      s.cu.stream = some st → st.number = number → st.nextPart = index.toNat → st.nextPart + 1 = st.partCount →
      s.cu.build = some had →
      let whole := had ++ recs
      (imageAccepted st.roster st.occupied whole = false → fails [] .partMissed) ∧
      (imageAccepted st.roster st.occupied whole = true →
        (∀ t, exec .frameClose s = .next t → t.tc.state = .joining →
          t.tc.turn = st.snapTurn + BitVec.ofNat 16 s.cu.log.length) ∧
        (s.cu.log = [] → exec .frameClose s = .next (joins (Ztu.ofImage whole) st.snapTurn none st.roster none)) ∧
        ∀ l : LogEntry, s.cu.log = [l] →
          (l.orig = s.self → fails [{ kind := .duplicateSuspect, station := some s.self }] .logGap) ∧
          (l.orig ≠ s.self →
            let e := (Ztu.ofImage whole).apply st.roster l.orig s.self l.op
            let c : ClosureRecord :=
              { orig := l.orig, turn := l.turn, check := l.check, op := l.op
                expected := if e.foreign then 0 else e.roster
                lastRoll := l.lastRoll, repSeen := l.repSeen, own := false, foreign := e.foreign, closed := false }
            let last : LastApplied := { orig := l.orig, turn := l.turn, check := l.check }
            (l.closed = false →
              exec .frameClose s = .next (joins e.ztu (st.snapTurn + 1) (some last) e.roster (some c))) ∧
            (l.closed = true → l.lastRoll = none ∨ l.lastRoll = some .unreadable → fails [] .logGap) ∧
            ∀ roll : StationSet, l.closed = true → l.lastRoll = some (.readable roll) →
              let gone : StationSet := c.expected &&& ~~~roll
              (StationSet.has gone s.self = true → fails [] .logGap) ∧
              (gone = 0 →
                exec .frameClose s =
                  .next (joins e.ztu (st.snapTurn + 1) (some last) e.roster (some { c with closed := true }))) ∧
              (gone ≠ 0 → StationSet.has gone s.self = false →
                let r := e.ztu.remove e.roster gone s.self
                exec .frameClose s =
                  .next (joins r.ztu (st.snapTurn + 1) (some last) r.roster (some { c with closed := true })))))

/-- Every step keeps the pool's sum (R4). -/
def Obligations.EveryStepKeepsThePoolLaw : Prop :=
  ∀ s t : State, s.poolLaw → step s = .next t → t.poolLaw

/-- Every step keeps the laws of the zone records (R1, R2, R11). -/
def Obligations.EveryStepKeepsTheTableLaw : Prop :=
  ∀ s t : State, s.tableLaw → step s = .next t → t.tableLaw

/-- Every step keeps the law of the states out of step (R51). -/
def Obligations.EveryStepKeepsTheOutOfStepLaw : Prop :=
  ∀ s t : State, s.outOfStepLaw → step s = .next t → t.outOfStepLaw

/-- Every step keeps the law of the request queue (R98, R108). -/
def Obligations.EveryStepKeepsTheRequestLaw : Prop :=
  ∀ s t : State, s.requestLaw → step s = .next t → t.requestLaw

/-- Every step keeps the law of the line drive: the own slot is driven in its first quantum alone (R144, R147, R150). -/
def Obligations.EveryStepKeepsTheDriveLaw : Prop :=
  ∀ s t : State, s.driveLaw → step s = .next t → t.driveLaw

/-- Every step keeps the bounds of the Copy Unit (Table 4.1-1, R75, R86). -/
def Obligations.EveryStepKeepsTheCopyLaw : Prop :=
  ∀ s t : State, s.copyLaw → step s = .next t → t.copyLaw
end

