-- ==== Sys2Proof/Laws/Operands.lean ====
section
/-! SUPPORT. What the operations on station sets, bytes, bits and readings do, said once each: membership after each set
operation, the round trips of bytes, words and copy records, and the windows of pulse lengths. -/

namespace Sys2Proof

/-! ### Station sets -/

@[simp] theorem StationSet.has_zero (k : Station) : StationSet.has 0#16 k = false := by simp [StationSet.has]

/-- Two sets with the same members are equal. -/
theorem StationSet.ext_has {s t : StationSet} (h : ∀ k, StationSet.has s k = StationSet.has t k) : s = t := by
  apply BitVec.eq_of_getLsbD_eq
  intro i hi
  exact h ⟨i, hi⟩

@[simp] theorem StationSet.has_one (j k : Station) : StationSet.has (StationSet.one j) k = decide (j = k) := by
  revert j k
  decide

@[simp] theorem StationSet.has_or (s t : StationSet) (k : Station) :
    StationSet.has (s ||| t) k = (StationSet.has s k || StationSet.has t k) := by
  simp [StationSet.has]

@[simp] theorem StationSet.has_and (s t : StationSet) (k : Station) :
    StationSet.has (s &&& t) k = (StationSet.has s k && StationSet.has t k) := by
  simp [StationSet.has]

@[simp] theorem StationSet.has_not (s : StationSet) (k : Station) :
    StationSet.has (~~~s) k = !StationSet.has s k := by
  simp [StationSet.has]

@[simp] theorem StationSet.has_add (s : StationSet) (j k : Station) :
    StationSet.has (StationSet.add s j) k = (StationSet.has s k || decide (j = k)) := by
  simp [StationSet.add]

@[simp] theorem StationSet.has_minus (s t : StationSet) (k : Station) :
    StationSet.has (StationSet.minus s t) k = (StationSet.has s k && !StationSet.has t k) := by
  simp [StationSet.minus]

@[simp] theorem StationSet.has_del (s : StationSet) (j k : Station) :
    StationSet.has (StationSet.del s j) k = (StationSet.has s k && !decide (j = k)) := by
  simp [StationSet.del]

/-- A set is empty exactly when it has no member. -/
theorem StationSet.eq_zero_iff (s : StationSet) : s = 0 ↔ ∀ k, StationSet.has s k = false :=
  ⟨fun h k => by simp [h], fun h => StationSet.ext_has fun k => by simp [h k]⟩

/-- One set lies within another exactly when each of its members is one of the other's. -/
theorem StationSet.within_iff (s t : StationSet) :
    StationSet.within s t = true ↔ ∀ k, StationSet.has s k = true → StationSet.has t k = true := by
  simp only [StationSet.within, beq_iff_eq, StationSet.eq_zero_iff, StationSet.has_minus]
  exact forall_congr' fun k => by cases StationSet.has s k <;> simp

@[simp] theorem StationSet.mem_members (s : StationSet) (k : Station) :
    k ∈ StationSet.members s ↔ StationSet.has s k = true := by
  simp [StationSet.members]

/-- The members of a set are listed in ascending order. -/
theorem StationSet.members_ascending (s : StationSet) : (StationSet.members s).Pairwise (· < ·) :=
  (List.pairwise_lt_finRange 16).filter _

/-- The lowest member of a set is a member below every other. -/
theorem StationSet.lowest_eq_some {s : StationSet} {k : Station} :
    StationSet.lowest s = some k ↔
      StationSet.has s k = true ∧ ∀ j, j < k → StationSet.has s j = false := by
  unfold StationSet.lowest
  rw [List.find?_eq_some_iff_getElem]
  constructor
  · rintro ⟨h, i, hi, e, f⟩
    refine ⟨h, fun j hj => ?_⟩
    have ek : i = k.val := by simpa using congrArg Fin.val e
    have := f j.val (by have := Fin.lt_def.1 hj; omega)
    simpa using this
  · rintro ⟨h, f⟩
    refine ⟨h, k.val, by simp, by simp, fun i hi => ?_⟩
    have := f ⟨i, by omega⟩ (Fin.lt_def.2 hi)
    simpa using this

/-- A set without a lowest member is empty. -/
theorem StationSet.lowest_eq_none {s : StationSet} :
    StationSet.lowest s = none ↔ ∀ j, StationSet.has s j = false := by
  simp [StationSet.lowest]

/-- A holder set with one member is the set of that station alone. -/
theorem StationSet.one_member_iff (s : StationSet) :
    (StationSet.members s).length = 1 ↔ ∃ k, s = StationSet.one k := by
  rw [List.length_eq_one_iff]
  constructor
  · rintro ⟨k, hk⟩
    refine ⟨k, StationSet.ext_has fun j => ?_⟩
    have hj : j ∈ StationSet.members s ↔ j ∈ [k] := by rw [hk]
    rw [StationSet.mem_members, List.mem_singleton] at hj
    rw [StationSet.has_one, Bool.eq_iff_iff, hj, decide_eq_true_iff]
    exact eq_comm
  · rintro ⟨k, rfl⟩
    refine ⟨k, ?_⟩
    revert k
    decide

namespace Machine

/-! ### Bits, bytes and words -/

@[simp] theorem byteOf_byteBits (b : Byte) :
    byteOf (b.getLsbD 7) (b.getLsbD 6) (b.getLsbD 5) (b.getLsbD 4) (b.getLsbD 3) (b.getLsbD 2) (b.getLsbD 1)
      (b.getLsbD 0) = b := by
  revert b
  decide

@[simp] theorem byteBits_byteOf (b7 b6 b5 b4 b3 b2 b1 b0 : Bool) :
    byteBits (byteOf b7 b6 b5 b4 b3 b2 b1 b0) = [b7, b6, b5, b4, b3, b2, b1, b0] := by
  revert b7 b6 b5 b4 b3 b2 b1 b0
  decide

@[simp] theorem bitsOf_nil : bitsOf [] = [] := rfl

theorem bitsOf_cons (b : Byte) (bs : List Byte) : bitsOf (b :: bs) = byteBits b ++ bitsOf bs := rfl

@[simp] theorem bitsOf_append (xs ys : List Byte) : bitsOf (xs ++ ys) = bitsOf xs ++ bitsOf ys := by
  simp [bitsOf]

@[simp] theorem length_bitsOf (bs : List Byte) : (bitsOf bs).length = 8 * bs.length := by
  induction bs with
  | nil => rfl
  | cons b bs ih => simp only [bitsOf_cons, byteBits, List.length_append, ih, List.length_cons, List.length_nil]; omega

/-- The bytes of the bits of bytes are those bytes. -/
@[simp] theorem bytesOf_bitsOf (bs : List Byte) : bytesOf (bitsOf bs) = bs := by
  induction bs with
  | nil => rfl
  | cons b bs ih =>
    change byteOf _ _ _ _ _ _ _ _ :: bytesOf (bitsOf bs) = b :: bs
    rw [byteOf_byteBits, ih]

/-- The bits of the whole bytes of a list of bits are its bits, when it holds whole bytes alone. -/
theorem bitsOf_bytesOf : ∀ bits : List Bool, bits.length % 8 = 0 → bitsOf (bytesOf bits) = bits
  | [], _ => rfl
  | b7 :: b6 :: b5 :: b4 :: b3 :: b2 :: b1 :: b0 :: rest, h => by
    simp only [bytesOf, bitsOf_cons, byteBits_byteOf]
    rw [bitsOf_bytesOf rest (by simp only [List.length_cons] at h; omega)]
    rfl
  | [_], h => by simp at h
  | [_, _], h => by simp at h
  | [_, _, _], h => by simp at h
  | [_, _, _, _], h => by simp at h
  | [_, _, _, _, _], h => by simp at h
  | [_, _, _, _, _, _], h => by simp at h
  | [_, _, _, _, _, _, _], h => by simp at h

/-- The more significant byte of a word, then the other, make the word. -/
@[simp] theorem wordOf_extract (w : BitVec 16) : wordOf (w.extractLsb' 8 8) (w.extractLsb' 0 8) = w := by
  unfold wordOf
  ext i hi
  simp only [BitVec.getElem_append, BitVec.getElem_extractLsb']
  split
  · simp [BitVec.getLsbD_eq_getElem hi]
  · simp [show 8 + (i - 8) = i by omega, BitVec.getLsbD_eq_getElem hi]

theorem wordBytes_wordOf (hi lo : Byte) : wordBytes (wordOf hi lo) = [hi, lo] := by
  have g : ∀ i, (wordOf hi lo).getLsbD i = if i < 8 then lo.getLsbD i else hi.getLsbD (i - 8) := fun i => by
    have e := BitVec.getLsbD_append (x := hi) (y := lo) (i := i)
    by_cases h : i < 8 <;> simp_all [wordOf]
  have h1 : (wordOf hi lo).extractLsb' 8 8 = hi := by
    apply BitVec.eq_of_getLsbD_eq
    intro i hi'
    simp [g, hi']
  have h2 : (wordOf hi lo).extractLsb' 0 8 = lo := by
    apply BitVec.eq_of_getLsbD_eq
    intro i hi'
    simp [g, hi']
  simp [wordBytes, h1, h2]

@[simp] theorem length_wordBytes (w : BitVec 16) : (wordBytes w).length = 2 := rfl

/-- The check register over bits in two lots. -/
theorem crcBits_append (reg : Check) (xs ys : List Bool) :
    crcBits reg (xs ++ ys) = crcBits (crcBits reg xs) ys := by
  simp [crcBits]

/-! ### Lengths (Tables 7.2-2 and 7.2-3) -/

/-- Table 7.2-2 read backwards: the lengths that have each reading. -/
theorem readPulse_eq_iff (len : Nat) (x : PulseReading) :
    readPulse len = x ↔
      match x with
      | .unseen => len < 5
      | .bit false => 20 ≤ len ∧ len ≤ 56
      | .bit true => 64 ≤ len ∧ len ≤ 104
      | .openSymbol => 160 ≤ len ∧ len ≤ 240
      | .halt => 400 ≤ len ∧ len < 1600
      | .stuck => 1600 ≤ len
      | .damage =>
        (5 ≤ len ∧ len < 20) ∨ (56 < len ∧ len < 64) ∨ (104 < len ∧ len < 160) ∨ (240 < len ∧ len < 400) := by
  unfold readPulse
  split_ifs <;> rcases x with _ | _ | (_ | _) | _ | _ | _ <;> simp <;> omega

theorem isSeparation_iff (gap : Nat) : isSeparation gap = true ↔ 20 ≤ gap ∧ gap ≤ 60 := by simp [isSeparation]

theorem isGapDamage_iff (gap : Nat) : isGapDamage gap = true ↔ gap < 20 ∨ (60 < gap ∧ gap < 140) := by
  simp [isGapDamage]

/-! ### The glitch filter (R145) -/

/-- A stretch without glitches has the length of its one run. -/
@[simp] theorem Stretch.seen_one {n : Nat} (h : 5 ≤ n) : Stretch.seen [n] = some n := by simp [Stretch.seen, glitchesOnly, h]

@[simp] theorem Stretch.running_one (n : Nat) : Stretch.running [n] = some n := by simp [Stretch.running, glitchesOnly]

/-- A spike or dropout shorter than 1/8Q is part of the stretch it falls in. -/
theorem Stretch.seen_glitch {n g m : Nat} (h : 5 ≤ n) (hg : g < 5) : Stretch.seen [n, g, m] = some (n + g + m) := by
  simp [Stretch.seen, glitchesOnly, h, hg, Nat.add_assoc]

/-- A stretch whose first edge has been let through has its length as a running one too. -/
theorem Stretch.running_of_seen {p : Stretch} {n : Nat} (h : Stretch.seen p = some n) : Stretch.running p = some n := by
  rcases p with _ | ⟨first, rest⟩
  · simp [Stretch.seen] at h
  · simp only [Stretch.seen, Stretch.running, Option.ite_none_right_eq_some, Bool.and_eq_true] at h ⊢
    exact ⟨h.1.2, h.2⟩

/-- A stretch with a run at the other level that passes the filter is no single stretch. -/
theorem Stretch.seen_edge {n g m : Nat} (hg : 5 ≤ g) : Stretch.seen [n, g, m] = none := by
  simp [Stretch.seen, glitchesOnly, Nat.not_lt.2 hg]

/-! ### Codes and copy records -/

@[simp] theorem zoneOf_zoneByte (z : Zone) : zoneOf (zoneByte z) = some z := by
  revert z
  decide

theorem zoneOf_eq_some {b : Byte} {z : Zone} : zoneOf b = some z ↔ z.val = b.toNat := by
  unfold zoneOf
  split
  · rw [Option.some.injEq, Fin.ext_iff]; exact eq_comm
  · rename_i h
    constructor
    · intro e; cases e
    · intro e; exact absurd (e ▸ z.isLt) h

@[simp] theorem modeOf_byte (m : Mode) : modeOf m.byte = some m := by cases m <;> rfl

@[simp] theorem waitingOf_byte (w : Waiting) : waitingOf w.byte = w := by
  obtain ⟨k, m⟩ := w
  revert k
  cases m <;> decide

@[simp] theorem orderOf_body (op : OrderOp) : orderOf op.kind.code op.body = some op := by
  cases op with
  | claim z m => simp [orderOf, OrderOp.kind, OrderOp.body]
  | release z => simp [orderOf, OrderOp.kind, OrderOp.body, FrameKind.code]
  | touch => rfl
  | join => rfl
  | leave => rfl

@[simp] theorem length_copyRec_bytes (r : CopyRec) : r.bytes.length = r.size := by
  simp [CopyRec.bytes, CopyRec.size, wordBytes]; omega

/-- The record at the front of a list of bytes is read back, with the bytes after it. -/
theorem readRec_bytes (r : CopyRec) (h : r.queue.length ≤ 31) (rest : List Byte) :
    readRec (r.bytes ++ rest) = some (r, rest) := by
  have fields : ∀ (x : BitVec 5) (c : BitVec 2),
      (c ++ (0#1 ++ x) : Byte).extractLsb' 0 5 = x ∧ (c ++ (0#1 ++ x) : Byte).extractLsb' 6 2 = c := by
    decide
  obtain ⟨hx, hc⟩ := fields (BitVec.ofNat 5 r.queue.length) r.code
  have hn : (BitVec.ofNat 5 r.queue.length).toNat = r.queue.length := by
    rw [BitVec.toNat_ofNat]
    omega
  have hm : List.map (waitingOf ∘ Waiting.byte) r.queue = r.queue := by
    conv_rhs => rw [← List.map_id r.queue]
    exact List.map_congr_left fun w _ => waitingOf_byte w
  simp only [CopyRec.bytes, wordBytes, List.cons_append, List.nil_append, readRec, hx, hc, hn, wordOf_extract]
  rw [if_neg (by simp), List.take_append_of_le_length (by simp), List.drop_append_of_le_length (by simp),
    List.take_of_length_le (by simp), List.drop_of_length_le (by simp)]
  simp [hm]

@[simp] theorem headOf_bytes (h : HeadBody) (hp : h.partCount < 256) (hz : h.occupied < 256) :
    headOf h.bytes = some h := by
  simp [headOf, HeadBody.bytes, wordBytes, Nat.mod_eq_of_lt hp, Nat.mod_eq_of_lt hz]

end Machine

end Sys2Proof
end

