-- ==== Sys2Proof/Laws/State.lean ====
section
/-! SUPPORT. Each field of the state after each update of one block, and after the small updates built on them. All are
true by unfolding; later proofs cite them and unfold no record update. -/

namespace Sys2Proof.Machine

/-! ### onLif -/

@[simp] theorem State.onLif_pending (f : Lif → Lif) (s : State) : (s.onLif f).pending = s.pending := rfl
@[simp] theorem State.onLif_pins (f : Lif → Lif) (s : State) : (s.onLif f).pins = s.pins := rfl
@[simp] theorem State.onLif_lif (f : Lif → Lif) (s : State) : (s.onLif f).lif = f s.lif := rfl
@[simp] theorem State.onLif_fe (f : Lif → Lif) (s : State) : (s.onLif f).fe = s.fe := rfl
@[simp] theorem State.onLif_tc (f : Lif → Lif) (s : State) : (s.onLif f).tc = s.tc := rfl
@[simp] theorem State.onLif_ztu (f : Lif → Lif) (s : State) : (s.onLif f).ztu = s.ztu := rfl
@[simp] theorem State.onLif_cu (f : Lif → Lif) (s : State) : (s.onLif f).cu = s.cu := rfl
@[simp] theorem State.onLif_ru (f : Lif → Lif) (s : State) : (s.onLif f).ru = s.ru := rfl
@[simp] theorem State.onLif_hp (f : Lif → Lif) (s : State) : (s.onLif f).hp = s.hp := rfl
@[simp] theorem State.onLif_freeUsed (f : Lif → Lif) (s : State) : (s.onLif f).freeUsed = s.freeUsed := rfl

/-! ### onFe -/

@[simp] theorem State.onFe_pending (f : Fe → Fe) (s : State) : (s.onFe f).pending = s.pending := rfl
@[simp] theorem State.onFe_pins (f : Fe → Fe) (s : State) : (s.onFe f).pins = s.pins := rfl
@[simp] theorem State.onFe_lif (f : Fe → Fe) (s : State) : (s.onFe f).lif = s.lif := rfl
@[simp] theorem State.onFe_fe (f : Fe → Fe) (s : State) : (s.onFe f).fe = f s.fe := rfl
@[simp] theorem State.onFe_tc (f : Fe → Fe) (s : State) : (s.onFe f).tc = s.tc := rfl
@[simp] theorem State.onFe_ztu (f : Fe → Fe) (s : State) : (s.onFe f).ztu = s.ztu := rfl
@[simp] theorem State.onFe_cu (f : Fe → Fe) (s : State) : (s.onFe f).cu = s.cu := rfl
@[simp] theorem State.onFe_ru (f : Fe → Fe) (s : State) : (s.onFe f).ru = s.ru := rfl
@[simp] theorem State.onFe_hp (f : Fe → Fe) (s : State) : (s.onFe f).hp = s.hp := rfl
@[simp] theorem State.onFe_freeUsed (f : Fe → Fe) (s : State) : (s.onFe f).freeUsed = s.freeUsed := rfl

/-! ### onTc -/

@[simp] theorem State.onTc_pending (f : Tc → Tc) (s : State) : (s.onTc f).pending = s.pending := rfl
@[simp] theorem State.onTc_pins (f : Tc → Tc) (s : State) : (s.onTc f).pins = s.pins := rfl
@[simp] theorem State.onTc_lif (f : Tc → Tc) (s : State) : (s.onTc f).lif = s.lif := rfl
@[simp] theorem State.onTc_fe (f : Tc → Tc) (s : State) : (s.onTc f).fe = s.fe := rfl
@[simp] theorem State.onTc_tc (f : Tc → Tc) (s : State) : (s.onTc f).tc = f s.tc := rfl
@[simp] theorem State.onTc_ztu (f : Tc → Tc) (s : State) : (s.onTc f).ztu = s.ztu := rfl
@[simp] theorem State.onTc_cu (f : Tc → Tc) (s : State) : (s.onTc f).cu = s.cu := rfl
@[simp] theorem State.onTc_ru (f : Tc → Tc) (s : State) : (s.onTc f).ru = s.ru := rfl
@[simp] theorem State.onTc_hp (f : Tc → Tc) (s : State) : (s.onTc f).hp = s.hp := rfl
@[simp] theorem State.onTc_freeUsed (f : Tc → Tc) (s : State) : (s.onTc f).freeUsed = s.freeUsed := rfl

/-! ### onZtu -/

@[simp] theorem State.onZtu_pending (f : Ztu → Ztu) (s : State) : (s.onZtu f).pending = s.pending := rfl
@[simp] theorem State.onZtu_pins (f : Ztu → Ztu) (s : State) : (s.onZtu f).pins = s.pins := rfl
@[simp] theorem State.onZtu_lif (f : Ztu → Ztu) (s : State) : (s.onZtu f).lif = s.lif := rfl
@[simp] theorem State.onZtu_fe (f : Ztu → Ztu) (s : State) : (s.onZtu f).fe = s.fe := rfl
@[simp] theorem State.onZtu_tc (f : Ztu → Ztu) (s : State) : (s.onZtu f).tc = s.tc := rfl
@[simp] theorem State.onZtu_ztu (f : Ztu → Ztu) (s : State) : (s.onZtu f).ztu = f s.ztu := rfl
@[simp] theorem State.onZtu_cu (f : Ztu → Ztu) (s : State) : (s.onZtu f).cu = s.cu := rfl
@[simp] theorem State.onZtu_ru (f : Ztu → Ztu) (s : State) : (s.onZtu f).ru = s.ru := rfl
@[simp] theorem State.onZtu_hp (f : Ztu → Ztu) (s : State) : (s.onZtu f).hp = s.hp := rfl
@[simp] theorem State.onZtu_freeUsed (f : Ztu → Ztu) (s : State) : (s.onZtu f).freeUsed = s.freeUsed := rfl

/-! ### onCu -/

@[simp] theorem State.onCu_pending (f : Cu → Cu) (s : State) : (s.onCu f).pending = s.pending := rfl
@[simp] theorem State.onCu_pins (f : Cu → Cu) (s : State) : (s.onCu f).pins = s.pins := rfl
@[simp] theorem State.onCu_lif (f : Cu → Cu) (s : State) : (s.onCu f).lif = s.lif := rfl
@[simp] theorem State.onCu_fe (f : Cu → Cu) (s : State) : (s.onCu f).fe = s.fe := rfl
@[simp] theorem State.onCu_tc (f : Cu → Cu) (s : State) : (s.onCu f).tc = s.tc := rfl
@[simp] theorem State.onCu_ztu (f : Cu → Cu) (s : State) : (s.onCu f).ztu = s.ztu := rfl
@[simp] theorem State.onCu_cu (f : Cu → Cu) (s : State) : (s.onCu f).cu = f s.cu := rfl
@[simp] theorem State.onCu_ru (f : Cu → Cu) (s : State) : (s.onCu f).ru = s.ru := rfl
@[simp] theorem State.onCu_hp (f : Cu → Cu) (s : State) : (s.onCu f).hp = s.hp := rfl
@[simp] theorem State.onCu_freeUsed (f : Cu → Cu) (s : State) : (s.onCu f).freeUsed = s.freeUsed := rfl

/-! ### onRu -/

@[simp] theorem State.onRu_pending (f : Ru → Ru) (s : State) : (s.onRu f).pending = s.pending := rfl
@[simp] theorem State.onRu_pins (f : Ru → Ru) (s : State) : (s.onRu f).pins = s.pins := rfl
@[simp] theorem State.onRu_lif (f : Ru → Ru) (s : State) : (s.onRu f).lif = s.lif := rfl
@[simp] theorem State.onRu_fe (f : Ru → Ru) (s : State) : (s.onRu f).fe = s.fe := rfl
@[simp] theorem State.onRu_tc (f : Ru → Ru) (s : State) : (s.onRu f).tc = s.tc := rfl
@[simp] theorem State.onRu_ztu (f : Ru → Ru) (s : State) : (s.onRu f).ztu = s.ztu := rfl
@[simp] theorem State.onRu_cu (f : Ru → Ru) (s : State) : (s.onRu f).cu = s.cu := rfl
@[simp] theorem State.onRu_ru (f : Ru → Ru) (s : State) : (s.onRu f).ru = f s.ru := rfl
@[simp] theorem State.onRu_hp (f : Ru → Ru) (s : State) : (s.onRu f).hp = s.hp := rfl
@[simp] theorem State.onRu_freeUsed (f : Ru → Ru) (s : State) : (s.onRu f).freeUsed = s.freeUsed := rfl

/-! ### onHp -/

@[simp] theorem State.onHp_pending (f : Hp → Hp) (s : State) : (s.onHp f).pending = s.pending := rfl
@[simp] theorem State.onHp_pins (f : Hp → Hp) (s : State) : (s.onHp f).pins = s.pins := rfl
@[simp] theorem State.onHp_lif (f : Hp → Hp) (s : State) : (s.onHp f).lif = s.lif := rfl
@[simp] theorem State.onHp_fe (f : Hp → Hp) (s : State) : (s.onHp f).fe = s.fe := rfl
@[simp] theorem State.onHp_tc (f : Hp → Hp) (s : State) : (s.onHp f).tc = s.tc := rfl
@[simp] theorem State.onHp_ztu (f : Hp → Hp) (s : State) : (s.onHp f).ztu = s.ztu := rfl
@[simp] theorem State.onHp_cu (f : Hp → Hp) (s : State) : (s.onHp f).cu = s.cu := rfl
@[simp] theorem State.onHp_ru (f : Hp → Hp) (s : State) : (s.onHp f).ru = s.ru := rfl
@[simp] theorem State.onHp_hp (f : Hp → Hp) (s : State) : (s.onHp f).hp = f s.hp := rfl
@[simp] theorem State.onHp_freeUsed (f : Hp → Hp) (s : State) : (s.onHp f).freeUsed = s.freeUsed := rfl

/-! ### onPins -/

@[simp] theorem State.onPins_pending (f : Pins → Pins) (s : State) : (s.onPins f).pending = s.pending := rfl
@[simp] theorem State.onPins_pins (f : Pins → Pins) (s : State) : (s.onPins f).pins = f s.pins := rfl
@[simp] theorem State.onPins_lif (f : Pins → Pins) (s : State) : (s.onPins f).lif = s.lif := rfl
@[simp] theorem State.onPins_fe (f : Pins → Pins) (s : State) : (s.onPins f).fe = s.fe := rfl
@[simp] theorem State.onPins_tc (f : Pins → Pins) (s : State) : (s.onPins f).tc = s.tc := rfl
@[simp] theorem State.onPins_ztu (f : Pins → Pins) (s : State) : (s.onPins f).ztu = s.ztu := rfl
@[simp] theorem State.onPins_cu (f : Pins → Pins) (s : State) : (s.onPins f).cu = s.cu := rfl
@[simp] theorem State.onPins_ru (f : Pins → Pins) (s : State) : (s.onPins f).ru = s.ru := rfl
@[simp] theorem State.onPins_hp (f : Pins → Pins) (s : State) : (s.onPins f).hp = s.hp := rfl
@[simp] theorem State.onPins_freeUsed (f : Pins → Pins) (s : State) : (s.onPins f).freeUsed = s.freeUsed := rfl

/-! ### setState -/

@[simp] theorem State.setState_pending (x : StationState) (s : State) : (s.setState x).pending = s.pending := rfl
@[simp] theorem State.setState_pins (x : StationState) (s : State) : (s.setState x).pins = s.pins := rfl
@[simp] theorem State.setState_lif (x : StationState) (s : State) : (s.setState x).lif = s.lif := rfl
@[simp] theorem State.setState_fe (x : StationState) (s : State) : (s.setState x).fe = s.fe := rfl
@[simp] theorem State.setState_tc (x : StationState) (s : State) : (s.setState x).tc = { s.tc with state := x } := rfl
@[simp] theorem State.setState_ztu (x : StationState) (s : State) : (s.setState x).ztu = s.ztu := rfl
@[simp] theorem State.setState_cu (x : StationState) (s : State) : (s.setState x).cu = s.cu := rfl
@[simp] theorem State.setState_ru (x : StationState) (s : State) : (s.setState x).ru = s.ru := rfl
@[simp] theorem State.setState_hp (x : StationState) (s : State) : (s.setState x).hp = s.hp := rfl
@[simp] theorem State.setState_freeUsed (x : StationState) (s : State) : (s.setState x).freeUsed = s.freeUsed := rfl

/-! ### armRoll -/

@[simp] theorem State.armRoll_pending (x : RollUse) (b : Bool) (s : State) : (s.armRoll x b).pending = s.pending := rfl
@[simp] theorem State.armRoll_pins (x : RollUse) (b : Bool) (s : State) : (s.armRoll x b).pins = s.pins := rfl
@[simp] theorem State.armRoll_lif (x : RollUse) (b : Bool) (s : State) : (s.armRoll x b).lif = s.lif := rfl
@[simp] theorem State.armRoll_fe (x : RollUse) (b : Bool) (s : State) :
    (s.armRoll x b).fe = { s.fe with rollUse := x, slotRequest := b } := rfl
@[simp] theorem State.armRoll_tc (x : RollUse) (b : Bool) (s : State) : (s.armRoll x b).tc = s.tc := rfl
@[simp] theorem State.armRoll_ztu (x : RollUse) (b : Bool) (s : State) : (s.armRoll x b).ztu = s.ztu := rfl
@[simp] theorem State.armRoll_cu (x : RollUse) (b : Bool) (s : State) : (s.armRoll x b).cu = s.cu := rfl
@[simp] theorem State.armRoll_ru (x : RollUse) (b : Bool) (s : State) : (s.armRoll x b).ru = s.ru := rfl
@[simp] theorem State.armRoll_hp (x : RollUse) (b : Bool) (s : State) : (s.armRoll x b).hp = s.hp := rfl
@[simp] theorem State.armRoll_freeUsed (x : RollUse) (b : Bool) (s : State) :
    (s.armRoll x b).freeUsed = s.freeUsed := rfl

/-! ### post -/

@[simp] theorem State.post_pending (n : Notice) (s : State) : (s.post n).pending = s.pending := rfl
@[simp] theorem State.post_pins (n : Notice) (s : State) : (s.post n).pins = s.pins := rfl
@[simp] theorem State.post_lif (n : Notice) (s : State) : (s.post n).lif = s.lif := rfl
@[simp] theorem State.post_fe (n : Notice) (s : State) : (s.post n).fe = s.fe := rfl
@[simp] theorem State.post_tc (n : Notice) (s : State) : (s.post n).tc = s.tc := rfl
@[simp] theorem State.post_ztu (n : Notice) (s : State) : (s.post n).ztu = s.ztu := rfl
@[simp] theorem State.post_cu (n : Notice) (s : State) : (s.post n).cu = s.cu := rfl
@[simp] theorem State.post_ru (n : Notice) (s : State) : (s.post n).ru = s.ru := rfl
@[simp] theorem State.post_hp (n : Notice) (s : State) : (s.post n).hp = s.hp.post n := rfl
@[simp] theorem State.post_freeUsed (n : Notice) (s : State) : (s.post n).freeUsed = s.freeUsed := rfl

/-! ### setLine -/

@[simp] theorem State.setLine_pending (x : LineState) (s : State) : (s.setLine x).pending = s.pending := rfl
@[simp] theorem State.setLine_pins (x : LineState) (s : State) : (s.setLine x).pins = s.pins := rfl
@[simp] theorem State.setLine_lif (x : LineState) (s : State) : (s.setLine x).lif = { s.lif with line := x } := rfl
@[simp] theorem State.setLine_fe (x : LineState) (s : State) : (s.setLine x).fe = s.fe := rfl
@[simp] theorem State.setLine_tc (x : LineState) (s : State) : (s.setLine x).tc = s.tc := rfl
@[simp] theorem State.setLine_ztu (x : LineState) (s : State) : (s.setLine x).ztu = s.ztu := rfl
@[simp] theorem State.setLine_cu (x : LineState) (s : State) : (s.setLine x).cu = s.cu := rfl
@[simp] theorem State.setLine_ru (x : LineState) (s : State) : (s.setLine x).ru = s.ru := rfl
@[simp] theorem State.setLine_hp (x : LineState) (s : State) : (s.setLine x).hp = s.hp := rfl
@[simp] theorem State.setLine_freeUsed (x : LineState) (s : State) : (s.setLine x).freeUsed = s.freeUsed := rfl

/-! ### setHold -/

@[simp] theorem State.setHold_pending (s : State) : s.setHold.pending = s.pending := rfl
@[simp] theorem State.setHold_pins (s : State) : s.setHold.pins = s.pins := rfl
@[simp] theorem State.setHold_lif (s : State) : s.setHold.lif = s.lif := rfl
@[simp] theorem State.setHold_fe (s : State) : s.setHold.fe = { s.fe with hold := true } := rfl
@[simp] theorem State.setHold_tc (s : State) : s.setHold.tc = s.tc := rfl
@[simp] theorem State.setHold_ztu (s : State) : s.setHold.ztu = s.ztu := rfl
@[simp] theorem State.setHold_cu (s : State) : s.setHold.cu = s.cu := rfl
@[simp] theorem State.setHold_ru (s : State) : s.setHold.ru = s.ru := rfl
@[simp] theorem State.setHold_hp (s : State) : s.setHold.hp = s.hp := rfl
@[simp] theorem State.setHold_freeUsed (s : State) : s.setHold.freeUsed = s.freeUsed := rfl

/-! ### stopWait -/

@[simp] theorem State.stopWait_pending (s : State) : s.stopWait.pending = s.pending := rfl
@[simp] theorem State.stopWait_pins (s : State) : s.stopWait.pins = s.pins := rfl
@[simp] theorem State.stopWait_lif (s : State) : s.stopWait.lif = s.lif := rfl
@[simp] theorem State.stopWait_fe (s : State) : s.stopWait.fe = s.fe := rfl
@[simp] theorem State.stopWait_tc (s : State) : s.stopWait.tc = { s.tc with waitTimer := none } := rfl
@[simp] theorem State.stopWait_ztu (s : State) : s.stopWait.ztu = s.ztu := rfl
@[simp] theorem State.stopWait_cu (s : State) : s.stopWait.cu = s.cu := rfl
@[simp] theorem State.stopWait_ru (s : State) : s.stopWait.ru = s.ru := rfl
@[simp] theorem State.stopWait_hp (s : State) : s.stopWait.hp = s.hp := rfl
@[simp] theorem State.stopWait_freeUsed (s : State) : s.stopWait.freeUsed = s.freeUsed := rfl

/-! ### discardTable -/

@[simp] theorem State.discardTable_pending (s : State) : s.discardTable.pending = s.pending := rfl
@[simp] theorem State.discardTable_pins (s : State) : s.discardTable.pins = s.pins := rfl
@[simp] theorem State.discardTable_lif (s : State) : s.discardTable.lif = s.lif := rfl
@[simp] theorem State.discardTable_fe (s : State) : s.discardTable.fe = s.fe := rfl
@[simp] theorem State.discardTable_tc (s : State) :
    s.discardTable.tc = { s.tc with turn := 0, roster := 0, lastApplied := none, closure := none } := rfl
@[simp] theorem State.discardTable_ztu (s : State) : s.discardTable.ztu = Ztu.reset := rfl
@[simp] theorem State.discardTable_cu (s : State) : s.discardTable.cu = s.cu := rfl
@[simp] theorem State.discardTable_ru (s : State) : s.discardTable.ru = s.ru := rfl
@[simp] theorem State.discardTable_hp (s : State) : s.discardTable.hp = s.hp := rfl
@[simp] theorem State.discardTable_freeUsed (s : State) : s.discardTable.freeUsed = s.freeUsed := rfl

/-! ### setTable -/

@[simp] theorem State.setTable_pending (e : EditResult) (s : State) : (s.setTable e).pending = s.pending := rfl
@[simp] theorem State.setTable_pins (e : EditResult) (s : State) : (s.setTable e).pins = s.pins := rfl
@[simp] theorem State.setTable_lif (e : EditResult) (s : State) : (s.setTable e).lif = s.lif := rfl
@[simp] theorem State.setTable_fe (e : EditResult) (s : State) : (s.setTable e).fe = s.fe := rfl
@[simp] theorem State.setTable_tc (e : EditResult) (s : State) :
    (s.setTable e).tc = { s.tc with roster := e.roster } := rfl
@[simp] theorem State.setTable_ztu (e : EditResult) (s : State) : (s.setTable e).ztu = e.ztu := rfl
@[simp] theorem State.setTable_cu (e : EditResult) (s : State) : (s.setTable e).cu = s.cu := rfl
@[simp] theorem State.setTable_ru (e : EditResult) (s : State) : (s.setTable e).ru = s.ru := rfl
@[simp] theorem State.setTable_hp (e : EditResult) (s : State) : (s.setTable e).hp = s.hp := rfl
@[simp] theorem State.setTable_freeUsed (e : EditResult) (s : State) : (s.setTable e).freeUsed = s.freeUsed := rfl

/-! ### enterHailing -/

@[simp] theorem State.enterHailing_pending (s : State) : s.enterHailing.pending = s.pending := rfl
@[simp] theorem State.enterHailing_pins (s : State) : s.enterHailing.pins = s.pins := rfl
@[simp] theorem State.enterHailing_lif (s : State) : s.enterHailing.lif = s.lif := rfl
@[simp] theorem State.enterHailing_fe (s : State) :
    s.enterHailing.fe = { s.fe.withdraw .join with hail := some 0 } := rfl
@[simp] theorem State.enterHailing_tc (s : State) : s.enterHailing.tc = { s.tc with state := .hailing } := rfl
@[simp] theorem State.enterHailing_ztu (s : State) : s.enterHailing.ztu = s.ztu := rfl
@[simp] theorem State.enterHailing_cu (s : State) : s.enterHailing.cu = s.cu.stopLog := rfl
@[simp] theorem State.enterHailing_ru (s : State) : s.enterHailing.ru = s.ru := rfl
@[simp] theorem State.enterHailing_hp (s : State) : s.enterHailing.hp = s.hp := rfl
@[simp] theorem State.enterHailing_freeUsed (s : State) : s.enterHailing.freeUsed = s.freeUsed := rfl

/-! ### enterFounding -/

@[simp] theorem State.enterFounding_pending (s : State) : s.enterFounding.pending = s.pending := rfl
@[simp] theorem State.enterFounding_pins (s : State) : s.enterFounding.pins = s.pins := rfl
@[simp] theorem State.enterFounding_lif (s : State) : s.enterFounding.lif = s.lif := rfl
@[simp] theorem State.enterFounding_fe (s : State) : s.enterFounding.fe = { s.fe with join := some 0 } := rfl
@[simp] theorem State.enterFounding_tc (s : State) : s.enterFounding.tc = { s.tc with state := .founding } := rfl
@[simp] theorem State.enterFounding_ztu (s : State) : s.enterFounding.ztu = s.ztu := rfl
@[simp] theorem State.enterFounding_cu (s : State) : s.enterFounding.cu = s.cu.stopLog := rfl
@[simp] theorem State.enterFounding_ru (s : State) : s.enterFounding.ru = s.ru := rfl
@[simp] theorem State.enterFounding_hp (s : State) : s.enterFounding.hp = s.hp := rfl
@[simp] theorem State.enterFounding_freeUsed (s : State) : s.enterFounding.freeUsed = s.freeUsed := rfl

/-! ### State.self -/

@[simp] theorem State.onLif_self (f : Lif → Lif) (s : State) : (s.onLif f).self = s.self := rfl
@[simp] theorem State.onFe_self (f : Fe → Fe) (s : State) : (s.onFe f).self = s.self := rfl
@[simp] theorem State.onTc_self (f : Tc → Tc) (s : State) : (s.onTc f).self = s.self := rfl
@[simp] theorem State.onZtu_self (f : Ztu → Ztu) (s : State) : (s.onZtu f).self = s.self := rfl
@[simp] theorem State.onCu_self (f : Cu → Cu) (s : State) : (s.onCu f).self = s.self := rfl
@[simp] theorem State.onRu_self (f : Ru → Ru) (s : State) : (s.onRu f).self = s.self := rfl
@[simp] theorem State.onPins_self (f : Pins → Pins) (s : State) : (s.onPins f).self = s.self := rfl
@[simp] theorem State.setState_self (x : StationState) (s : State) : (s.setState x).self = s.self := rfl
@[simp] theorem State.armRoll_self (x : RollUse) (b : Bool) (s : State) : (s.armRoll x b).self = s.self := rfl
@[simp] theorem State.setLine_self (x : LineState) (s : State) : (s.setLine x).self = s.self := rfl
@[simp] theorem State.setHold_self (s : State) : s.setHold.self = s.self := rfl
@[simp] theorem State.stopWait_self (s : State) : s.stopWait.self = s.self := rfl
@[simp] theorem State.discardTable_self (s : State) : s.discardTable.self = s.self := rfl
@[simp] theorem State.setTable_self (e : EditResult) (s : State) : (s.setTable e).self = s.self := rfl
@[simp] theorem State.enterHailing_self (s : State) : s.enterHailing.self = s.self := rfl
@[simp] theorem State.enterFounding_self (s : State) : s.enterFounding.self = s.self := rfl

end Sys2Proof.Machine
end

