-- ==== Sys2Proof/Laws/Ops.lean ====
section
/-! SUPPORT. What each shared operation of Ops.lean does, said once: posts and merges of notices, pending frames, entry to
HAILING, the wait-probe timer. -/

namespace Sys2Proof.Machine

/-! ### Notices (R136, R138) -/

@[simp] theorem Hp.posts_nil (h : Hp) : h.posts [] = h := rfl

@[simp] theorem Hp.posts_cons (h : Hp) (n : Notice) (ns : List Notice) : h.posts (n :: ns) = (h.post n).posts ns := rfl

theorem Hp.posts_append (h : Hp) (xs ys : List Notice) : h.posts (xs ++ ys) = (h.posts xs).posts ys := by
  simp [Hp.posts]

@[simp] theorem Hp.post_station (h : Hp) (n : Notice) : (h.post n).station = h.station := by
  unfold Hp.post; split <;> rfl
@[simp] theorem Hp.post_quantum (h : Hp) (n : Notice) : (h.post n).quantum = h.quantum := by
  unfold Hp.post; split <;> rfl
@[simp] theorem Hp.post_waitLimit (h : Hp) (n : Notice) : (h.post n).waitLimit = h.waitLimit := by
  unfold Hp.post; split <;> rfl
@[simp] theorem Hp.post_autoRejoin (h : Hp) (n : Notice) : (h.post n).autoRejoin = h.autoRejoin := by
  unfold Hp.post; split <;> rfl
@[simp] theorem Hp.post_peerNotices (h : Hp) (n : Notice) : (h.post n).peerNotices = h.peerNotices := by
  unfold Hp.post; split <;> rfl
@[simp] theorem Hp.post_truncated (h : Hp) (n : Notice) : (h.post n).truncated = h.truncated := by
  unfold Hp.post; split <;> rfl

@[simp] theorem Hp.posts_station (h : Hp) (ns : List Notice) : (h.posts ns).station = h.station := by
  induction ns generalizing h with
  | nil => rfl
  | cons n ns ih => simp [ih]
@[simp] theorem Hp.posts_waitLimit (h : Hp) (ns : List Notice) : (h.posts ns).waitLimit = h.waitLimit := by
  induction ns generalizing h with
  | nil => rfl
  | cons n ns ih => simp [ih]
@[simp] theorem Hp.posts_autoRejoin (h : Hp) (ns : List Notice) : (h.posts ns).autoRejoin = h.autoRejoin := by
  induction ns generalizing h with
  | nil => rfl
  | cons n ns ih => simp [ih]
@[simp] theorem Hp.posts_peerNotices (h : Hp) (ns : List Notice) : (h.posts ns).peerNotices = h.peerNotices := by
  induction ns generalizing h with
  | nil => rfl
  | cons n ns ih => simp [ih]

/-- Posting a list changes the Host Port alone. -/
theorem State.postAll_eq (s : State) (ns : List Notice) : s.postAll ns = { s with hp := s.hp.posts ns } := by
  induction ns generalizing s with
  | nil => rfl
  | cons n ns ih =>
    simp only [State.postAll, List.foldl_cons] at ih ⊢
    rw [ih]
    rfl

@[simp] theorem State.postAll_nil (s : State) : s.postAll [] = s := rfl

@[simp] theorem State.postAll_pending (s : State) (ns : List Notice) : (s.postAll ns).pending = s.pending := by
  rw [State.postAll_eq]
@[simp] theorem State.postAll_pins (s : State) (ns : List Notice) : (s.postAll ns).pins = s.pins := by
  rw [State.postAll_eq]
@[simp] theorem State.postAll_lif (s : State) (ns : List Notice) : (s.postAll ns).lif = s.lif := by
  rw [State.postAll_eq]
@[simp] theorem State.postAll_fe (s : State) (ns : List Notice) : (s.postAll ns).fe = s.fe := by
  rw [State.postAll_eq]
@[simp] theorem State.postAll_tc (s : State) (ns : List Notice) : (s.postAll ns).tc = s.tc := by
  rw [State.postAll_eq]
@[simp] theorem State.postAll_ztu (s : State) (ns : List Notice) : (s.postAll ns).ztu = s.ztu := by
  rw [State.postAll_eq]
@[simp] theorem State.postAll_cu (s : State) (ns : List Notice) : (s.postAll ns).cu = s.cu := by
  rw [State.postAll_eq]
@[simp] theorem State.postAll_ru (s : State) (ns : List Notice) : (s.postAll ns).ru = s.ru := by
  rw [State.postAll_eq]
@[simp] theorem State.postAll_hp (s : State) (ns : List Notice) : (s.postAll ns).hp = s.hp.posts ns := by
  rw [State.postAll_eq]
@[simp] theorem State.postAll_freeUsed (s : State) (ns : List Notice) : (s.postAll ns).freeUsed = s.freeUsed := by
  rw [State.postAll_eq]
@[simp] theorem State.postAll_self (s : State) (ns : List Notice) : (s.postAll ns).self = s.self := by
  simp [State.self]

/-! ### Merges (R44, R72, R136) -/

@[simp] theorem mergeNotices_nil_left (fuel n : Nat) (ys : List Notice) : mergeNotices fuel n [] ys = (ys, n) := by
  cases fuel <;> simp [mergeNotices]

@[simp] theorem mergeNotices_nil_right (fuel n : Nat) (xs : List Notice) : mergeNotices fuel n xs [] = (xs, n) := by
  cases fuel <;> cases xs <;> simp [mergeNotices]

/-- A merge holds each notice of the two lists once, and keeps the order of each, for every value of the free choices. -/
theorem mergeNotices_spec (fuel n : Nat) (xs ys : List Notice) :
    (mergeNotices fuel n xs ys).1.Perm (xs ++ ys) ∧ xs.Sublist (mergeNotices fuel n xs ys).1 ∧
      ys.Sublist (mergeNotices fuel n xs ys).1 := by
  induction fuel generalizing n xs ys with
  | zero => simp [mergeNotices]
  | succ fuel ih =>
    cases xs with
    | nil => simp
    | cons x xs =>
      cases ys with
      | nil => simp
      | cons y ys =>
        simp only [mergeNotices]
        split
        · obtain ⟨h1, h2, h3⟩ := ih (n + 1) xs (y :: ys)
          exact ⟨h1.cons x, h2.cons_cons x, h3.cons x⟩
        · obtain ⟨h1, h2, h3⟩ := ih (n + 1) (x :: xs) ys
          exact ⟨(h1.cons y).trans List.perm_middle.symm, h2.cons y, h3.cons_cons y⟩

/-- With nothing from the Turn Controller, the notices join in their order and no choice is used. -/
@[simp] theorem State.postEither_nil_right (s : State) (xs : List Notice) :
    s.postEither xs [] = { s with hp := s.hp.posts xs } := by
  simp [State.postEither, State.postAll_eq]

/-- With nothing from the Request Unit, the notices join in their order and no choice is used. -/
@[simp] theorem State.postEither_nil_left (s : State) (ys : List Notice) :
    s.postEither [] ys = { s with hp := s.hp.posts ys } := by
  simp [State.postEither, State.postAll_eq]

/-- Posting two sets in either order changes the Host Port and the count of choices alone. -/
theorem State.postEither_eq (s : State) (xs ys : List Notice) :
    s.postEither xs ys =
      { s with
        freeUsed := (mergeNotices (xs.length + ys.length) s.freeUsed xs ys).2
        hp := s.hp.posts (mergeNotices (xs.length + ys.length) s.freeUsed xs ys).1 } := by
  simp [State.postEither, State.postAll_eq]

/-! ### Pending frames and attempts (R175) -/

/-- Withdrawing with no attempt on the line takes away the pending frame alone. -/
theorem Fe.withdraw_of_tx_none {f : Fe} (h : f.tx = none) (src : Source) : f.withdraw src = f.dropPending src := by
  cases src <;> simp [Fe.withdraw, Fe.dropPending, h] <;> simp [← h]

@[simp] theorem Fe.withdraw_tx_isSome (src : Source) (f : Fe) : (f.withdraw src).tx.isSome = f.tx.isSome := by
  cases src <;> simp [Fe.withdraw]
@[simp] theorem Fe.withdraw_rx (src : Source) (f : Fe) : (f.withdraw src).rx = f.rx := by cases src <;> rfl
@[simp] theorem Fe.withdraw_slots (src : Source) (f : Fe) : (f.withdraw src).slots = f.slots := by cases src <;> rfl
@[simp] theorem Fe.withdraw_rollUse (src : Source) (f : Fe) : (f.withdraw src).rollUse = f.rollUse := by cases src <;> rfl
@[simp] theorem Fe.withdraw_slotRequest (src : Source) (f : Fe) : (f.withdraw src).slotRequest = f.slotRequest := by
  cases src <;> rfl
@[simp] theorem Fe.withdraw_hold (src : Source) (f : Fe) : (f.withdraw src).hold = f.hold := by cases src <;> rfl
@[simp] theorem Fe.withdraw_yieldTimer (src : Source) (f : Fe) : (f.withdraw src).yieldTimer = f.yieldTimer := by
  cases src <;> rfl

/-- A withdrawal marks the attempt on the line at most as withdrawn: what it sends stays. -/
theorem Fe.withdraw_tx (src : Source) (f : Fe) :
    (f.withdraw src).tx = f.tx.map fun a => if a.source = src then { a with withdrawn := true } else a := by
  cases src <;> rfl

/-! ### Closure and FOUNDING -/

/-- With no closure pending, no accepted frame takes one. -/
theorem State.takeClosure_of_noClosure {s : State} (h : s.noClosure) : s.takeClosure = s := by
  unfold State.takeClosure
  unfold State.noClosure at h
  rcases hc : s.tc.closure with _ | c <;> simp only [hc] at h ⊢
  rw [if_pos h]

/-- With no closure pending, the handing over of a frame begins with the frame. -/
theorem State.closeBefore_of_noClosure {s : State} (h : s.noClosure) (f : Frame) : s.closeBefore f = s := by
  unfold State.closeBefore
  rw [State.takeClosure_of_noClosure h]
  split
  · split <;> rfl
  · rfl

theorem State.foundingAbort_of_not {s : State} (h : s.tc.state ≠ .founding) : s.foundingAbort = s := if_neg h

theorem State.foundingAbort_of_founding {s : State} (h : s.tc.state = .founding) : s.foundingAbort = s.enterHailing :=
  if_pos h

/-! ### The wait-probe timer (R49) -/

/-- The timer follows its condition and nothing else changes. -/
theorem State.syncWait_eq (before : Bool) (s : State) :
    s.syncWait before =
      { s with tc := { s.tc with
          waitTimer := if s.waitCond then (if before then s.tc.waitTimer else some 0) else none } } := rfl

/-- The timer starts again from zero when its condition holds, and nothing else changes. -/
theorem State.restartWait_eq (s : State) :
    s.restartWait = { s with tc := { s.tc with waitTimer := if s.waitCond then some 0 else none } } := rfl

/-! ### RESETN -/

/-- With RESETN HIGH a command of the line or a timer has its effect. -/
theorem live_of_high {s : State} (h : s.pins.resetLow = false) (f : State → State) : live f s = .next (f s) := by
  simp [live, h]

/-- With RESETN LOW it has none. -/
theorem live_of_low {s : State} (h : s.pins.resetLow = true) (f : State → State) : live f s = .next s := by
  simp [live, h]

end Sys2Proof.Machine
end

