-- ==== Sys2Proof/Laws/Line.lean ====
section
/-! SUPPORT. What the operations on the Line Interface's time, level and drive do, field by field, and how the tests of a
sender and the report of IDLE end. -/

namespace Sys2Proof.Machine

/-! ### Fields of the Line Interface -/

@[simp] theorem Lif.pass_line (t : Nat) (l : Lif) : (l.pass t).line = l.line := rfl
@[simp] theorem Lif.pass_low (t : Nat) (l : Lif) : (l.pass t).low = l.low := rfl
@[simp] theorem Lif.pass_lasted (t : Nat) (l : Lif) : (l.pass t).lasted = l.lasted + t := rfl
@[simp] theorem Lif.pass_drive (t : Nat) (l : Lif) : (l.pass t).drive = l.drive.bind (Drive.after t) := rfl
@[simp] theorem Lif.pass_slotAt (t : Nat) (l : Lif) : (l.pass t).slotAt = l.slotAt := rfl
@[simp] theorem Lif.pass_sinceReport (t : Nat) (l : Lif) : (l.pass t).sinceReport = l.sinceReport + t := rfl
@[simp] theorem Lif.pass_slotHeld (t : Nat) (l : Lif) : (l.pass t).slotHeld = l.slotHeld := rfl
@[simp] theorem Lif.pass_slotSpoilt (t : Nat) (l : Lif) : (l.pass t).slotSpoilt = l.slotSpoilt := rfl
@[simp] theorem Lif.lastingTo_line (n : Nat) (l : Lif) : (l.lastingTo n).line = l.line := rfl
@[simp] theorem Lif.lastingTo_low (n : Nat) (l : Lif) : (l.lastingTo n).low = l.low := rfl
@[simp] theorem Lif.lastingTo_lasted (n : Nat) (l : Lif) : (l.lastingTo n).lasted = max l.lasted n := by
  simp only [Lif.lastingTo, Lif.pass_lasted]; omega
@[simp] theorem Lif.edge_line (low : Bool) (l : Lif) : (l.edge low).line = l.line := by unfold Lif.edge; split <;> rfl
@[simp] theorem Lif.edge_low (low : Bool) (l : Lif) : (l.edge low).low = low := by
  unfold Lif.edge; split <;> first | assumption | rfl
@[simp] theorem Lif.edge_drive (low : Bool) (l : Lif) : (l.edge low).drive = l.drive := by unfold Lif.edge; split <;> rfl
@[simp] theorem Lif.dominantFor_line (n : Nat) (l : Lif) : (l.dominantFor n).line = l.line := by simp [Lif.dominantFor]
@[simp] theorem Lif.dominantFor_low (n : Nat) (l : Lif) : (l.dominantFor n).low = true := by simp [Lif.dominantFor]
@[simp] theorem Lif.pulse_line (n : Nat) (l : Lif) : (l.pulse n).line = l.line := by simp [Lif.pulse]
@[simp] theorem Lif.pulse_low (n : Nat) (l : Lif) : (l.pulse n).low = false := by simp [Lif.pulse]
/-- The recessive level counts from the end of a pulse (R154). -/
@[simp] theorem Lif.pulse_lasted (n : Nat) (l : Lif) : (l.pulse n).lasted = 0 := by simp [Lif.pulse, Lif.edge]
@[simp] theorem Lif.drives_line (x : Symbol) (l : Lif) : (l.drives x).line = l.line := rfl
@[simp] theorem Lif.drives_low (x : Symbol) (l : Lif) : (l.drives x).low = l.low := rfl
@[simp] theorem Lif.drives_drive (x : Symbol) (l : Lif) : (l.drives x).drive = some { symbol := x, left := x.length } := rfl
@[simp] theorem Lif.haltAlone_line (l : Lif) : l.haltAlone.line = l.line := rfl
@[simp] theorem Lif.haltAlone_low (l : Lif) : l.haltAlone.low = l.low := rfl
@[simp] theorem Lif.closed_line (l : Lif) : l.closed.line = .busy .roll := rfl
@[simp] theorem Lif.closed_low (l : Lif) : l.closed.low = l.low := rfl

/-! ### The operations in the words of the statements -/

theorem Lif.pass_eq_later (t : Nat) (l : Lif) : l.pass t = l.later t := by
  simp only [Lif.pass, Lif.later, Lif.mk.injEq, true_and, and_true]
  rcases l.drive with _ | d
  · rfl
  · simp only [Option.bind_some, Drive.after]
    split <;> split <;> first | rfl | omega

theorem Lif.haltAlone_eq_ownHalt (l : Lif) : l.haltAlone = l.ownHalt := by
  simp only [Lif.haltAlone, Lif.ownHalt, Lif.mk.injEq, true_and, and_true]
  rcases l.drive with _ | ⟨x, n⟩
  · rfl
  · cases x <;> rfl

theorem Lif.dominantFor_eq (n : Nat) (l : Lif) : l.dominantFor n = l.dominantTo n := by
  unfold Lif.dominantFor Lif.edge Lif.lastingTo Lif.dominantTo
  cases h : l.low
  · simp only [Bool.false_eq_true, if_false, Lif.pass_eq_later, Lif.later, Nat.sub_zero, Nat.zero_add]
  · simp only [if_true, Lif.pass_eq_later, Lif.later, Lif.mk.injEq, true_and, and_true, h]
    omega

theorem Lif.pulse_eq_heard (n : Nat) (l : Lif) : l.pulse n = l.heard n := by
  simp only [Lif.pulse, Lif.heard, Lif.dominantFor_eq, Lif.edge, Lif.dominantTo, Bool.true_eq_false, if_false]

/-- A pulse that the filter lets through has its length, whatever stood on LRX before (R145). -/
theorem Lif.pulseLength_of_seen {l : Lif} {p : Stretch} {n : Nat} (h : Stretch.seen p = some n) :
    l.pulseLength p = some n := by
  unfold Lif.pulseLength
  split
  · exact Stretch.running_of_seen h
  · exact h

/-! ### Drives (R144, R147) -/

/-- A drive of a symbol is over when its length has passed, and not before. -/
theorem Lif.drives_pass (x : Symbol) (t : Nat) (l : Lif) :
    ((l.drives x).pass t).drive = if x.length ≤ t then none else some { symbol := x, left := x.length - t } := by
  simp [Drive.after]

/-- Time ends drives and begins none. -/
theorem Lif.pass_drive_some {t : Nat} {l : Lif} {d : Drive} (h : (l.pass t).drive = some d) :
    l.drive = some { d with left := d.left + t } ∧ 0 < d.left := by
  rw [Lif.pass_drive, Option.bind_eq_some_iff] at h
  obtain ⟨e, he, h⟩ := h
  unfold Drive.after at h
  split at h
  · cases h
  · cases h
    refine ⟨?_, by simp only; omega⟩
    rw [he]
    simp only [Option.some.injEq]
    cases e
    simp only [Drive.mk.injEq, true_and]
    simp only at *
    omega

/-- The own slot is driven from its start: the time to it is what is missing, and none is given once it has begun or while
more than one slot lies before it (R150). -/
theorem Lif.toOwnSlot_eq_some {self : Station} {k t : Nat} {l : Lif} (h : l.toOwnSlot self k = some t) :
    (k = self.val ∨ k + 1 = self.val) ∧ l.slotAt + l.sinceReport + t = 80 * ((self.val : Int) - k) := by
  unfold Lif.toOwnSlot at h
  simp only [Option.ite_none_right_eq_some, Option.some.injEq] at h
  obtain ⟨⟨hk, h0⟩, rfl⟩ := h
  exact ⟨hk, by omega⟩

@[simp] theorem Lif.atOwnSlot_line (t : Nat) (runs : List Nat) (l : Lif) : (l.atOwnSlot t runs).line = l.line := by
  unfold Lif.atOwnSlot; split <;> rfl
@[simp] theorem Lif.atOwnSlot_drive (t : Nat) (runs : List Nat) (l : Lif) :
    (l.atOwnSlot t runs).drive = l.drive.bind (Drive.after t) := by
  unfold Lif.atOwnSlot; split <;> rfl

/-- With one stretch since the last report the level at the own slot is the one that stood there, and with more it is that of
the last stretch (R145, R150). -/
theorem Lif.atOwnSlot_eq (t : Nat) (runs : List Nat) (l : Lif) :
    l.atOwnSlot t runs =
      { l.later t with
        low := if runs.length = 1 then l.low else levelAfter l.slotHeld runs
        lasted := if runs.length = 1 then l.lasted + t else lastedAfter l.slotHeld runs } := by
  unfold Lif.atOwnSlot
  rw [← Lif.pass_eq_later]
  split <;> rfl

theorem Lif.reachedHalt_iff (l : Lif) : l.reachedHalt = true ↔ l.low = true ∧ 400 ≤ l.lasted := by
  simp [Lif.reachedHalt]

/-- The window is open while no pulse has reached 10Q: neither the level that stands on the line, nor the pulse that was too
long at the last report (R150). -/
theorem Lif.windowOpen_iff (runs : List Nat) (l : Lif) :
    l.windowOpen runs = true ↔ ¬ (l.low = true ∧ 400 ≤ l.lasted) ∧ ∀ h, l.slotHeld = some h → h + runs.headD 0 < 400 := by
  simp only [Lif.windowOpen, Bool.and_eq_true, Bool.not_eq_true', ← Bool.not_eq_true, Lif.reachedHalt_iff,
    carriedLength]
  rcases l.slotHeld with _ | h <;> simp

theorem Lif.restOver_eq_later (l : Lif) : l.restOver = l.later (240 - (l.slotAt + l.sinceReport)).toNat :=
  Lif.pass_eq_later _ _

/-- At the CLOSE, with no own HALT under way, nothing is driven. -/
theorem Lif.closed_drive {l : Lif} (h : ∀ d, l.drive = some d → d.symbol ≠ .haltSymbol) : l.closed.drive = none := by
  unfold Lif.closed Lif.haltAlone
  rcases hd : l.drive with _ | d
  · rfl
  · simp [h d hd]

/-! ### The sender (R172) -/

/-- A station with no frame in transmission compares nothing. -/
theorem State.underTest_of_tx_none {s : State} (h : s.fe.tx = none) : s.underTest = none := by
  simp [State.underTest, State.sending, h]

theorem State.sending_of_tx_none {s : State} (h : s.fe.tx = none) : s.sending = none := by simp [State.sending, h]

theorem State.sending_of_unfaulted {s : State} {a : Attempt} (h : s.fe.tx = some a) (hf : a.faulted = false) :
    s.sending = some a := by
  simp [State.sending, h, hf]

/-- A station that compares nothing finds no fault in a pulse. -/
theorem State.pulseTested_of_none {s : State} (h : s.underTest = none) (len : Nat) : s.pulseTested len = s := by
  simp [State.pulseTested, h]

/-- A pulse that started within the own drive, and within the points of the symbol's row, passes the sender's tests. -/
theorem State.pulseTested_of_within {s : State} {x : Symbol} (h : s.underTest = some x) (h0 : s.startOff = false)
    {len : Nat} (h1 : x.window.1 ≤ len) (h2 : len ≤ x.window.2) : s.pulseTested len = s := by
  simp only [State.pulseTested, h, h0]
  rw [if_neg (by simp), if_neg (by omega), if_neg (by omega)]

/-- A pulse that did not start within the own drive is a fault, whatever its length. -/
theorem State.pulseTested_of_startOff {s : State} (h : s.startOff = true) (len : Nat) :
    s.pulseTested len = s.startFault := by
  unfold State.pulseTested
  cases hu : s.underTest with
  | none => simp [State.startOff, hu] at h
  | some x => simp only [h, if_true]

/-! ### Where the pulse of the own symbol must start (R172) -/

theorem State.pulseDue_of_none {s : State} (h : s.underTest = none) : s.pulseDue = none := by
  simp [State.pulseDue, h]

/-- While the line is dominant no pulse is due. -/
theorem State.pulseDue_of_low {s : State} (h : s.lif.low = true) : s.pulseDue = none := by
  unfold State.pulseDue
  split <;> simp [h]

/-- A sender whose symbol has been asked for waits for its pulse while LRX is recessive. -/
theorem State.pulseDue_of_asked {s : State} {x : Symbol} (h : s.underTest = some x) (ha : s.asked = true)
    (hl : s.lif.low = false) (hp : s.lif.line = .busy .frame ∨ s.lif.line = .busy .pulse) :
    s.pulseDue = some (s.lif.driveLeft x) := by
  rcases hp with hp | hp <;> simp [State.pulseDue, h, ha, hl, hp]

/-- Where the sender waits for no pulse, recessive time passes and nothing else comes about. -/
theorem State.quietPassed_of_none {s : State} (h : s.pulseDue = none) (t : Nat) :
    s.quietPassed t = s.onLif (Lif.pass t) := by
  simp [State.quietPassed, h]

/-- The same where the own drive goes on beyond that time. -/
theorem State.quietPassed_of_driven {s : State} {n t : Nat} (h : s.pulseDue = some n) (ht : t < n) :
    s.quietPassed t = s.onLif (Lif.pass t) := by
  simp only [State.quietPassed, h]
  rw [if_neg (by omega)]

/-- The own drive ends with no pulse begun: the fault is found there, and the rest of the time passes after it. -/
theorem State.quietPassed_of_over {s : State} {n t : Nat} (h : s.pulseDue = some n) (ht : n ≤ t) :
    s.quietPassed t = (s.onLif (Lif.pass n)).startFault.onLif (Lif.pass (t - n)) := by
  simp only [State.quietPassed, h]
  rw [if_pos ht]

/-- A fault of the start asks for the HALT, marks the attempt, and touches nothing else. -/
theorem State.startFault_eq (s : State) :
    s.startFault =
      { s with
        lif := { s.lif with drive := some { symbol := .haltSymbol, left := 480 } }
        fe := { s.fe with tx := s.fe.tx.map fun a => { a with faulted := true, missed := true } } } := by
  simp only [State.startFault, State.faultFound, Bool.false_eq_true, if_false, State.onLif, State.onFe, Lif.drives,
    Symbol.length, Option.map_map]
  rfl

/-- Recessive time passes whole, or up to the end of the own drive, where the fault is found, and then the rest of it. -/
theorem State.quietPassed_cases (t : Nat) (s : State) :
    s.quietPassed t = s.onLif (Lif.pass t) ∨
      ∃ n, s.pulseDue = some n ∧ n ≤ t ∧
        s.quietPassed t = (s.onLif (Lif.pass n)).startFault.onLif (Lif.pass (t - n)) := by
  cases h : s.pulseDue with
  | none => exact .inl (State.quietPassed_of_none h t)
  | some n =>
    by_cases ht : n ≤ t
    · exact .inr ⟨n, rfl, ht, State.quietPassed_of_over h ht⟩
    · exact .inl (State.quietPassed_of_driven h (by omega))

/-- In the words of the statements: the symbol compared has been asked for. -/
theorem State.asked_iff {s : State} {a : Attempt} (h : s.fe.tx = some a) : s.asked = true ↔ s.askedFor a := by
  unfold State.asked State.askedFor
  cases hr : s.fe.rx <;> simp [h]

/-- Of the drive of `x` more than `t` is left on a recessive line, or the line is dominant. -/
theorem State.not_driveOver_iff {s : State} {x : Symbol} {t : Nat} :
    ¬ s.driveOver x t ↔ s.lif.low = true ∨ t < s.lif.driveLeft x := by
  unfold State.driveOver Lif.driveLeft
  rcases hd : s.lif.drive with _ | ⟨y, n⟩
  · simp
  · by_cases hy : y = x
    · subst hy; cases s.lif.low <;> simp
    · simp [hy]

/-- A pulse that starts within the own drive is none that is off. -/
theorem State.startOff_of_startsWithin {s : State} {a : Attempt} {x : Symbol} (hu : s.underTest = some x)
    (hx : s.fe.tx = some a) (h : s.startsWithin a x 0) : s.startOff = false := by
  have ha : s.asked = true := (State.asked_iff hx).2 h.1
  rcases State.not_driveOver_iff.1 h.2 with hl | hl
  · simp [State.startOff, ha, State.pulseDue_of_low hl]
  · simp only [State.startOff, ha, State.pulseDue, hu]
    split
    · simp; omega
    · simp

/-- While the own drive does not run out the time passes and nothing else comes about. -/
theorem State.quietPassed_of_not_runsOut {s : State} {a : Attempt} {x : Symbol} {t : Nat} (hu : s.underTest = some x)
    (h : ¬ s.runsOut a x t) (hx : s.fe.tx = some a) : s.quietPassed t = s.onLif (Lif.pass t) := by
  cases hd : s.pulseDue with
  | none => exact State.quietPassed_of_none hd t
  | some n =>
    refine State.quietPassed_of_driven hd ?_
    simp only [State.pulseDue, hu, Option.ite_none_right_eq_some, Bool.and_eq_true, Bool.or_eq_true, beq_iff_eq,
      Option.some.injEq] at hd
    obtain ⟨⟨⟨ha, hl⟩, hline⟩, rfl⟩ := hd
    have hn : ¬ s.driveOver x t := fun hdo => h ⟨hline, (State.asked_iff hx).1 ha, hdo⟩
    rcases State.not_driveOver_iff.1 hn with hl' | hl'
    · simp [hl'] at hl
    · exact hl'

/-- A recessive stretch passes in the words of the statements, where it meets no fault of the start. -/
theorem State.stretchPassed_eq_gapHeard {s : State} {g : Nat}
    (h : s.quietPassed (g - s.lif.lasted) = s.onLif (Lif.pass (g - s.lif.lasted))) :
    s.stretchPassed g = { s with lif := s.lif.gapHeard g } := by
  unfold State.stretchPassed Lif.gapHeard
  cases hl : s.lif.low
  · simp only [Bool.false_eq_true, if_false, h, State.onLif, Lif.pass_eq_later, Lif.edge, Lif.later, hl]
  · simp

/-- A sender that has found no fault yet drives its HALT (R173). -/
theorem State.senderFault_of_sending {s : State} {a : Attempt} (h : s.sending = some a) :
    s.senderFault = s.faultFound false := by
  simp [State.senderFault, h]

/-- A station that does not send finds no fault. -/
theorem State.senderFault_of_none {s : State} (h : s.sending = none) : s.senderFault = s := by
  simp [State.senderFault, h]

/-- A test fails in one of two ways: an arbitration loss, or a bit fault (R171, R172). -/
theorem State.testFailed_cases (x : Symbol) (late : Bool) (s : State) :
    (s.testFailed x late = s.loseArbitration ∧ x = .bit false ∧ late = true ∧
        s.fe.rx.any Reception.inArbitration = true) ∨
      ∃ dup, s.testFailed x late = s.faultFound dup ∧
        (dup = true → x = .bit false ∧ late = true ∧ s.fe.rx.any Reception.inArbitration = false) := by
  by_cases h : x = .bit false ∧ late = true ∧ s.fe.rx.any Reception.inArbitration = true
  · exact .inl ⟨if_pos h, h.1, h.2.1, h.2.2⟩
  · refine .inr ⟨_, if_neg h, fun e => ?_⟩
    simpa [and_assoc] using e

/-! ### IDLE (R157, R167) -/

/-- With no frame in transmission, the report of IDLE changes the line state and the yield timer alone. -/
theorem State.lineIdle_of_tx_none {s : State} (h : s.fe.tx = none) :
    s.lineIdle =
      { s with
        lif := { s.lif with line := .idle }
        fe := { s.fe with yieldTimer := if s.fe.hold then some 0 else none } } := by
  have : s.endFaulted = s := by simp [State.endFaulted, h]
  simp only [State.lineIdle, this]
  rfl

end Sys2Proof.Machine
end

