-- ==== Sys2Proof/Laws/ZoneTable.lean ====
section
/-! SUPPORT. What the operations of the Zone Table Unit do to each zone record and to the pool, said once. -/

namespace Sys2Proof.Machine

/-! ### One record replaced -/

@[simp] theorem Ztu.zone_setZone (t : Ztu) (z y : Zone) (r : ZoneRec) :
    (t.setZone z r).zone y = if z = y then r else t.zone y := by
  simp only [Ztu.zone, Ztu.setZone, Fin.getElem_fin, Vector.getElem_set, Fin.ext_iff]

@[simp] theorem Ztu.free_setZone (t : Ztu) (z : Zone) (r : ZoneRec) : (t.setZone z r).free = t.free := rfl

@[simp] theorem Ztu.zone_giveBack (t : Ztu) (n : Nat) (z : Zone) : (t.giveBack n).zone z = t.zone z := rfl

@[simp] theorem Ztu.free_giveBack (t : Ztu) (n : Nat) : (t.giveBack n).free = t.free + n := rfl

@[simp] theorem Ztu.zone_withFree (t : Ztu) (n : Nat) (z : Zone) : ({ t with free := n } : Ztu).zone z = t.zone z := rfl

@[simp] theorem Ztu.zone_reset (z : Zone) : Ztu.reset.zone z = ZoneRec.reset := by
  simp [Ztu.zone, Ztu.reset]

@[simp] theorem Ztu.free_reset : Ztu.reset.free = 96 := rfl

/-- Two tables with the same records and the same free count are equal. -/
theorem Ztu.ext_zone {t u : Ztu} (h : ∀ z, t.zone z = u.zone z) (hf : t.free = u.free) : t = u := by
  obtain ⟨tz, tf⟩ := t
  obtain ⟨uz, uf⟩ := u
  simp only [Ztu.mk.injEq] at hf ⊢
  exact ⟨Vector.ext fun i hi => h ⟨i, hi⟩, hf⟩

/-- Writing a record back over itself changes nothing. -/
@[simp] theorem Ztu.setZone_self (t : Ztu) (z : Zone) : t.setZone z (t.zone z) = t := by
  apply Ztu.ext_zone
  · intro y
    rw [Ztu.zone_setZone]
    split
    · rename_i h; rw [h]
    · rfl
  · rfl

theorem ZoneRec.waits_iff (r : ZoneRec) (k : Station) : r.waits k = true ↔ ∃ w ∈ r.queue, w.station = k := by
  simp [ZoneRec.waits]

/-- The entries in use change with the queue of the one record replaced. -/
theorem Ztu.inUse_setZone (t : Ztu) (z : Zone) (r : ZoneRec) :
    (t.setZone z r).inUse + (t.zone z).queue.length = t.inUse + r.queue.length := by
  unfold Ztu.inUse
  have key : ∀ l : List Zone, l.Nodup →
      (l.map fun y => ((t.setZone z r).zone y).queue.length).sum + (if z ∈ l then (t.zone z).queue.length else 0) =
        (l.map fun y => (t.zone y).queue.length).sum + (if z ∈ l then r.queue.length else 0) := by
    intro l hl
    induction l with
    | nil => rfl
    | cons y l ih =>
      have hl' := List.nodup_cons.1 hl
      have := ih hl'.2
      by_cases h : z = y
      · subst h
        simp only [hl'.1, if_false] at this
        simp only [List.map_cons, List.sum_cons, Ztu.zone_setZone, if_true, List.mem_cons_self]
        simp only [Ztu.zone_setZone] at this
        omega
      · simp only [List.map_cons, List.sum_cons, Ztu.zone_setZone, if_false, List.mem_cons, h, false_or]
        simp only [Ztu.zone_setZone] at this
        omega
  have := key (List.finRange 64) (List.nodup_finRange 64)
  simpa using this

/-! ### The advance (R6) -/

/-- Steps 2 and 3 of the advance on a queue: what is granted is its front, the rest stays, holders are only added, and
the head that stays is not compatible with the state it met. -/
theorem advanceQueue_spec (st : ZoneState) (h : StationSet) (q : List Waiting) :
    q = (advanceQueue st h q).2 ++ (advanceQueue st h q).1.queue ∧
      (advanceQueue st h q).1.holders = (advanceQueue st h q).2.foldl (fun s w => StationSet.add s w.station) h ∧
      (advanceQueue st h q).1.state = ((advanceQueue st h q).2.getLast?.map fun w => w.mode.zoneState).getD st ∧
      ∀ w, (advanceQueue st h q).1.queue.head? = some w →
        compatible (advanceQueue st h q).1.state w.mode = false := by
  induction q generalizing st h with
  | nil => simp [advanceQueue]
  | cons w rest ih =>
    unfold advanceQueue
    by_cases hc : compatible st w.mode = true
    · rw [if_pos hc]
      obtain ⟨h1, h2, h3, h4⟩ := ih w.mode.zoneState (StationSet.add h w.station)
      refine ⟨by simpa using h1, by simpa using h2, ?_, h4⟩
      simp only [h3, List.getLast?_cons]
      cases hl : (advanceQueue w.mode.zoneState (StationSet.add h w.station) rest).2.getLast? <;> simp
    · rw [if_neg hc]
      simpa using hc

/-- A record whose head is not compatible with its state stays as it is, and grants nothing. -/
theorem ZoneRec.advance_of_blocked {r : ZoneRec} (hs : r.holders = 0 → r.state = .free)
    (hq : ∀ w, r.queue.head? = some w → compatible r.state w.mode = false) : r.advance = (r, []) := by
  obtain ⟨st, h, q⟩ := r
  have hst : (if h = 0 then ZoneState.free else st) = st := by
    split
    · rename_i e; exact (hs e).symm
    · rfl
  simp only [ZoneRec.advance, hst]
  cases q with
  | nil => rfl
  | cons w rest =>
    unfold advanceQueue
    rw [if_neg (by simpa using hq w rfl)]

/-- The advance of a zone changes its own record and the pool alone. -/
theorem Ztu.advance_zone (t : Ztu) (z y : Zone) :
    (t.advance z).1.zone y = if z = y then (t.zone z).advance.1 else t.zone y := by
  simp [Ztu.advance]

theorem Ztu.advance_free (t : Ztu) (z : Zone) : (t.advance z).1.free = t.free + (t.advance z).2.length := by
  simp [Ztu.advance]

/-- The entries that an advance grants go back to the pool: the sum of R4 stays. -/
theorem Ztu.advance_sum (t : Ztu) (z : Zone) :
    (t.advance z).1.inUse + (t.advance z).1.free = t.inUse + t.free := by
  have h := Ztu.inUse_setZone t z (t.zone z).advance.1
  have hq : (t.zone z).queue.length = (t.zone z).advance.2.length + (t.zone z).advance.1.queue.length := by
    have := (advanceQueue_spec (if (t.zone z).holders = 0 then .free else (t.zone z).state) (t.zone z).holders
      (t.zone z).queue).1
    have := congrArg List.length this
    simpa [ZoneRec.advance] using this
  have e : (t.advance z).1.inUse = (t.setZone z (t.zone z).advance.1).inUse := rfl
  rw [e, Ztu.advance_free]
  simp only [Ztu.advance, List.length_map]
  omega

/-! ### The removal procedure (R19 to R22) -/

@[simp] theorem Ztu.removeWaiting_zone (t : Ztu) (e : StationSet) (z : Zone) :
    (t.removeWaiting e).zone z = (t.zone z).dropWaiting e := by
  simp [Ztu.removeWaiting, Ztu.zone]

@[simp] theorem Ztu.removeHolders_zone (t : Ztu) (e : StationSet) (z : Zone) :
    (t.removeHolders e).zone z = (t.zone z).dropHolders e := by
  simp [Ztu.removeHolders, Ztu.zone]

@[simp] theorem Ztu.removeHolders_free (t : Ztu) (e : StationSet) : (t.removeHolders e).free = t.free := by
  unfold Ztu.removeHolders; rfl

/-- The advances of a list of zones change those zones alone. -/
theorem Ztu.advanceEach_zone_of_not_mem (t : Ztu) (zs : List Zone) (y : Zone) (h : y ∉ zs) :
    (t.advanceEach zs).1.zone y = t.zone y := by
  induction zs generalizing t with
  | nil => rfl
  | cons z zs ih =>
    simp only [List.mem_cons, not_or] at h
    simp only [Ztu.advanceEach, ih _ h.2, Ztu.advance_zone, if_neg (Ne.symm h.1)]

/-- Each zone of a list without repeats is advanced once. -/
theorem Ztu.advanceEach_zone (t : Ztu) (zs : List Zone) (hz : zs.Nodup) (y : Zone) (h : y ∈ zs) :
    (t.advanceEach zs).1.zone y = (t.zone y).advance.1 := by
  induction zs generalizing t with
  | nil => simp at h
  | cons z zs ih =>
    obtain ⟨h1, h2⟩ := List.nodup_cons.1 hz
    by_cases e : y = z
    · subst e
      simp only [Ztu.advanceEach, Ztu.advanceEach_zone_of_not_mem _ _ _ h1, Ztu.advance_zone, if_true]
    · have hm : y ∈ zs := by simpa [e] using h
      simp only [Ztu.advanceEach, ih _ h2 hm, Ztu.advance_zone, if_neg (Ne.symm e)]

/-- Each zone after a removal: the set out of its queue and its holders, then its advance. -/
theorem Ztu.remove_zone (t : Ztu) (roster e : StationSet) (own : Station) (z : Zone) :
    (t.remove roster e own).ztu.zone z = (((t.zone z).dropWaiting e).dropHolders e).advance.1 := by
  simp [Ztu.remove, Ztu.advanceEach_zone _ _ (List.nodup_finRange 64) z (List.mem_finRange z)]

/-! ### Edit reports (R8, R9) -/

/-- A CLAIM changes no roster and removes nothing. -/
theorem Ztu.claim_rest (t : Ztu) (roster : StationSet) (k : Station) (z : Zone) (m : Mode) :
    (t.claim roster k z m).roster = roster ∧ (t.claim roster k z m).removals = [] ∧ (t.claim roster k z m).left = 0 := by
  simp only [Ztu.claim]
  split_ifs <;> exact ⟨rfl, rfl, rfl⟩

/-- A RELEASE changes no roster and removes nothing. -/
theorem Ztu.release_rest (t : Ztu) (roster : StationSet) (k : Station) (z : Zone) :
    (t.release roster k z).roster = roster ∧ (t.release roster k z).removals = [] ∧ (t.release roster k z).left = 0 := by
  simp only [Ztu.release]
  split_ifs <;> exact ⟨rfl, rfl, rfl⟩

/-- An edit of another station's frame removes nothing of the own station's. -/
theorem Ztu.apply_removals_of_ne {k own : Station} (h : k ≠ own) (t : Ztu) (roster : StationSet) (op : OrderOp) :
    (t.apply roster k own op).removals = [] := by
  have hr : ∀ ro, (t.remove ro (StationSet.one k) own).removals = [] := by
    intro ro
    simp [Ztu.remove, Ztu.removalsOf, h]
  cases op with
  | claim z m => exact (t.claim_rest roster k z m).2.1
  | release z => exact (t.release_rest roster k z).2.1
  | touch => rfl
  | leave => exact hr roster
  | join =>
    simp only [Ztu.apply, Ztu.join]
    split_ifs
    · exact hr roster
    · rfl

/-- The foreign flag: set for every kind but JOIN when the originator is not in the roster (R9). -/
theorem Ztu.apply_foreign (t : Ztu) (roster : StationSet) (k own : Station) (op : OrderOp) :
    (t.apply roster k own op).foreign = (op != .join && !StationSet.has roster k) := by
  cases op with
  | join =>
    simp only [Ztu.apply, Ztu.join]
    split_ifs <;> rfl
  | claim z m => simp [Ztu.apply]
  | release z => simp [Ztu.apply]
  | touch => simp [Ztu.apply]
  | leave => simp [Ztu.apply]

/-- A report without a grant to the own station lists none. -/
theorem EditResult.ownGrants_of_none {e : EditResult} {own : Station} (h : ∀ g ∈ e.grants, g.entry.station ≠ own) :
    e.ownGrants own = [] := by
  unfold EditResult.ownGrants
  rw [List.filter_eq_nil_iff.2]
  · rfl
  · simpa using h

/-! ### The laws of a record, as the install checks them (R27) -/

/-- The first check of R1 in a record is the law of R1. -/
theorem ZoneRec.disjoint_iff (r : ZoneRec) : r.disjoint = true ↔ r.apart := by
  simp [ZoneRec.disjoint, ZoneRec.apart]

/-- The check of R2 in a record is the law of R2. -/
theorem ZoneRec.settled_iff (r : ZoneRec) : r.settled = true ↔ r.stateLaw := by
  obtain ⟨st, h, q⟩ := r
  cases st with
  | free => simp [ZoneRec.settled, ZoneRec.stateLaw]
  | exclusive => simp [ZoneRec.settled, ZoneRec.stateLaw, StationSet.one_member_iff]
  | shared => cases q <;> simp [ZoneRec.settled, ZoneRec.stateLaw]

/-- The check of the roster in a record is the law of R11. -/
theorem ZoneRec.inRoster_iff (roster : StationSet) (r : ZoneRec) : r.inRoster roster = true ↔ r.known roster := by
  simp [ZoneRec.inRoster, ZoneRec.known, StationSet.within_iff]

/-- The laws of the table, as a check that can be evaluated zone by zone. -/
theorem State.tableLaw_iff (s : State) :
    s.tableLaw ↔ ∀ z, ((s.ztu.zone z).lawful && (s.ztu.zone z).inRoster s.tc.roster) = true := by
  unfold State.tableLaw
  refine forall_congr' fun z => ?_
  rw [Bool.and_eq_true, ZoneRec.inRoster_iff, ZoneRec.lawful, Bool.and_eq_true, ZoneRec.disjoint_iff,
    ZoneRec.settled_iff]
  exact ⟨fun ⟨a, b, c⟩ => ⟨⟨a, b⟩, c⟩, fun ⟨⟨a, b⟩, c⟩ => ⟨a, b, c⟩⟩

end Sys2Proof.Machine
end

