-- ==== Sys2Proof/Laws/RequestUnit.lean ====
section
/-! SUPPORT. What the operations of the Request Unit do, said once: tickets, the busy test, the checks of SUBMIT, the
search of WITHDRAW, the handling of an edit report that concerns other stations alone. -/

namespace Sys2Proof.Machine

/-! ### Tickets -/

@[simp] theorem Ru.ticket_setTicket (r : Ru) (z y : Zone) (t : Ticket) :
    (r.setTicket z t).ticket y = if z = y then t else r.ticket y := by
  simp only [Ru.ticket, Ru.setTicket, Fin.getElem_fin, Vector.getElem_set, Fin.ext_iff]

@[simp] theorem Ru.ticket_reset (z : Zone) : Ru.reset.ticket z = .none := by
  simp [Ru.ticket, Ru.reset]

@[simp] theorem Ru.ticket_clearTouch (r : Ru) (z : Zone) : r.clearTouch.ticket z = r.ticket z := rfl

/-! ### SUBMIT and WITHDRAW -/

/-- The busy test finds what R101 says: the newest queued request naming the zone is a CLAIM, or none names it and its
ticket is not NONE. -/
theorem Ru.busy_iff (r : Ru) (z : Zone) : r.busy z = true ↔ r.zoneBusy z := by
  have e : r.newestNaming z = (r.queue.filter fun q => q.op.zone == some z).getLast? := by
    unfold Ru.newestNaming
    rw [← List.head?_filter, List.filter_reverse, List.head?_reverse]
  unfold Ru.busy Ru.zoneBusy
  rw [e]
  cases (r.queue.filter fun q => q.op.zone == some z).getLast? <;> simp

theorem Ru.leaveQueued_eq_false {r : Ru} : r.leaveQueued = false ↔ ∀ q ∈ r.queue, q.op ≠ .leave := by
  simp [Ru.leaveQueued]

/-- Everything that the last checks of SUBMIT and its append can do. -/
theorem Ru.enqueue_cases (r : Ru) (tag : Byte) (op : ReqOp) :
    ((∃ q ∈ r.queue, q.tag = tag) ∧ r.enqueue tag op = (r, .tag)) ∨
    ((∀ q ∈ r.queue, q.tag ≠ tag) ∧ 8 ≤ r.queue.length ∧ r.enqueue tag op = (r, .full)) ∨
    ((∀ q ∈ r.queue, q.tag ≠ tag) ∧ r.queue.length < 8 ∧ r.refusesBusy op = true ∧ r.enqueue tag op = (r, .busyZone)) ∨
    ((∀ q ∈ r.queue, q.tag ≠ tag) ∧ r.queue.length < 8 ∧ r.refusesBusy op = false ∧
      r.enqueue tag op =
        ({ r with queue := r.queue ++ [{ tag := tag, op := op, tries := 0, onLine := false }] }, .ok)) := by
  unfold Ru.enqueue requestCapacity
  by_cases h1 : ∃ q ∈ r.queue, q.tag = tag
  · exact .inl ⟨h1, if_pos (by simpa using h1)⟩
  · have h1' : ∀ q ∈ r.queue, q.tag ≠ tag := fun q hq e => h1 ⟨q, hq, e⟩
    rw [if_neg (by simpa using h1)]
    by_cases h2 : 8 ≤ r.queue.length
    · exact .inr (.inl ⟨h1', h2, if_pos h2⟩)
    · rw [if_neg h2]
      cases h3 : r.refusesBusy op
      · exact .inr (.inr (.inr ⟨h1', by omega, rfl, by simp⟩))
      · exact .inr (.inr (.inl ⟨h1', by omega, rfl, by simp⟩))

/-- The first queued request with a tag is the one WITHDRAW finds and takes out. -/
theorem find_tag {ahead behind : List Request} {q : Request} {tag : Byte} (hq : q.tag = tag)
    (ha : ∀ p ∈ ahead, p.tag ≠ tag) :
    (ahead ++ q :: behind).find? (fun q => q.tag == tag) = some q ∧
      (ahead ++ q :: behind).eraseP (fun q => q.tag == tag) = ahead ++ behind := by
  constructor
  · rw [List.find?_append, List.find?_eq_none.2 (by simpa using ha)]
    simp [hq]
  · rw [List.eraseP_append_right _ (by simpa using ha)]
    simp [hq]

/-! ### Edit reports -/

@[simp] theorem Ru.grantEach_nil (turn : Turn) (r : Ru) : Ru.grantEach turn [] r = (r, [], false) := rfl

@[simp] theorem Ru.loseEach_nil (turn : Turn) (why : Reason) (r : Ru) : Ru.loseEach turn why [] r = (r, []) := rfl

/-- The loss of the listed zones' tickets: they become NONE, every other ticket stays, and nothing but the ticket table
changes. -/
theorem Ru.loseEach_ticket (turn : Turn) (why : Reason) (zs : List Zone) (r : Ru) (y : Zone) :
    (Ru.loseEach turn why zs r).1.ticket y = if y ∈ zs then .none else r.ticket y := by
  induction zs generalizing r with
  | nil => simp
  | cons z zs ih =>
    unfold Ru.loseEach
    split
    · rename_i h
      rw [ih]
      by_cases e : y = z
      · subst e; simp [h]
      · simp [e]
    all_goals
      simp only [ih, Ru.ticket_setTicket, List.mem_cons]
      by_cases e : y = z
      · subst e; simp
      · simp [e, Ne.symm e]

theorem Ru.loseEach_rest (turn : Turn) (why : Reason) (zs : List Zone) (r : Ru) :
    (Ru.loseEach turn why zs r).1 = { r with tickets := (Ru.loseEach turn why zs r).1.tickets } := by
  induction zs generalizing r with
  | nil => rfl
  | cons z zs ih =>
    unfold Ru.loseEach
    split
    · exact ih r
    · exact ih _
    · exact ih _

/-- The LOST notices of a loss, in the order of the zones listed, from the tickets that stood before it. -/
theorem Ru.loseEach_notices (turn : Turn) (why : Reason) (zs : List Zone) (hz : zs.Nodup) (r : Ru) :
    (Ru.loseEach turn why zs r).2 =
      zs.filterMap fun z =>
        match r.ticket z with
        | .none => none
        | .waiting tag _ => some (lostNotice tag z turn why)
        | .holding tag _ => some (lostNotice tag z turn why) := by
  induction zs generalizing r with
  | nil => rfl
  | cons z zs ih =>
    obtain ⟨h1, h2⟩ := List.nodup_cons.1 hz
    have same : ∀ t : Ticket,
        (zs.filterMap fun y =>
          match (r.setTicket z t).ticket y with
          | .none => none
          | .waiting tag _ => some (lostNotice tag y turn why)
          | .holding tag _ => some (lostNotice tag y turn why)) =
        zs.filterMap fun y =>
          match r.ticket y with
          | .none => none
          | .waiting tag _ => some (lostNotice tag y turn why)
          | .holding tag _ => some (lostNotice tag y turn why) := by
      intro t
      apply List.filterMap_congr
      intro y hy
      have : z ≠ y := fun e => h1 (e ▸ hy)
      rw [Ru.ticket_setTicket, if_neg this]
    unfold Ru.loseEach
    cases ht : r.ticket z with
    | none => simp [ht, ih h2]
    | waiting tag m => simp only [List.filterMap_cons, ht, ih h2, same]
    | holding tag m => simp only [List.filterMap_cons, ht, ih h2, same]

/-- A report on another station's frame that grants and removes nothing of the own station's changes no ticket, posts
nothing and marks no duplicate. -/
theorem Ru.handle_of_others {self : Station} {turn : Turn} {c : EditCause} {e : EditResult} (r : Ru)
    (ho : c.own = none) (hi : c.orig ≠ some self) (hg : e.ownGrants self = []) (hr : e.removals = []) :
    r.handle self turn c e = (r, [], false) := by
  simp [Ru.handle, Ru.ownApplied, EditCause.ownLeave, EditCause.impostor, ho, hi, hg, hr]

end Sys2Proof.Machine
end

