-- ==== Sys2Proof/Laws/Commands.lean ====
section
/-! SUPPORT. What the operations behind the commands do, said once: the take of a host command, the CLOSE of an accepted
frame, the lag event, the roll's hand-over, and the readings of pulses. -/

namespace Sys2Proof.Machine

/-! ### The take of a host command (R124, R125) -/

/-- Committing a reply records the command as taken. -/
theorem Reply.commit_eq (r : Reply) (c : HostCmd) :
    r.commit c = r.state.answered c (r.code.byte :: r.data) r.reported := rfl

/-- In a transaction that is ready for it a command has its effect and its reply is fixed. -/
theorem State.takeCommand_of_ready {s : State} {c : HostCmd} (h : s.readyFor c) :
    s.takeCommand c = (s.reply c).state.answered c ((s.reply c).code.byte :: (s.reply c).data) (s.reply c).reported := by
  obtain ⟨h1, h2⟩ := h
  rcases ht : s.hp.txn with _ | t <;> simp only [ht] at h2
  obtain ⟨h3, h4, h5⟩ := h2
  rw [length_bitsOf] at h4
  have ha : t.admits c = true := by simp [Txn.admits, h3, h4, ← h5]
  simp [State.takeCommand, State.openTxn, h1, ht, ha, Reply.commit_eq]

/-- With no transaction the take is disregarded. -/
theorem State.takeCommand_of_closed {s : State} (c : HostCmd) (h : s.hp.txn = none) : s.takeCommand c = s := by
  unfold State.takeCommand State.openTxn
  rw [h]
  split_ifs <;> rfl

/-! ### The CLOSE (R163 to R167) -/

/-- The level's time runs to the CLOSE point, and of the drives an own HALT alone goes on. -/
theorem Lif.pass_closed (l : Lif) :
    (l.pass (140 - l.lasted)).closed =
      { (l.later (140 - l.lasted)).ownHalt with
        line := .busy .roll, slotAt := -20, sinceReport := l.lasted - 140, slotHeld := none, slotSpoilt := false } := by
  simp only [Lif.closed, Lif.haltAlone_eq_ownHalt, Lif.pass_lasted,
    show l.lasted + (140 - l.lasted) - 140 = l.lasted - 140 by omega]
  simp only [Lif.pass_eq_later]

/-- The state that the CLOSE leaves for the frame's handling, when the sender, if the station is one, has nothing left to
compare. -/
theorem State.close_eq_atClose (s : State) :
    (((s.onLif (Lif.pass (140 - s.lif.lasted))).onLif Lif.closed).onFe Fe.endRoll).onFe (fun g => { g with rx := none }) =
      s.atClose := by
  simp only [State.onLif, State.onFe, State.atClose, Lif.pass_closed]
  rfl

/-- The CLOSE of another station's accepted frame hands it over after the closure it brings on, and an order-class frame
sets the yield hold. -/
theorem exec_frameClose_of_receives {s : State} {f : Frame} (h : s.receives f) :
    exec .frameClose s =
      .next (if f.isOrder then (s.atClose.handFrame f none).setHold else s.atClose.handFrame f none) := by
  obtain ⟨h1, h2, hl, h3, h4⟩ := h
  rcases hr : s.fe.rx with _ | r <;> simp only [hr] at h4
  obtain ⟨h5, h6⟩ := h4
  have hq := State.quietPassed_of_none (State.pulseDue_of_none (State.underTest_of_tx_none h3)) (140 - s.lif.lasted)
  have hu : (s.onLif (Lif.pass (140 - s.lif.lasted))).underTest = none := State.underTest_of_tx_none (by simpa using h3)
  simp only [exec, execFrameClose, live_of_high h1, h2, hl, hr, and_self, if_true, State.closeSeen, hq, hu,
    Option.isSome_none, Bool.false_eq_true, if_false, h6, State.acceptedFrame, h5, State.close_eq_atClose]

/-- The same with no closure pending: the frame is handed over at once. -/
theorem exec_frameClose_of_noClosure {s : State} {f : Frame} (h : s.receives f) (hc : s.noClosure) :
    exec .frameClose s =
      .next (match f.payload with
        | .order op => (s.atClose.handOrder f op none).setHold
        | .hail => s.atClose.handHail f false
        | .copyHead _ => s.atClose.handCopy f false
        | .copyPart _ => s.atClose.handCopy f false) := by
  have hc' : s.atClose.noClosure := hc
  rw [exec_frameClose_of_receives h]
  unfold State.handFrame
  rw [State.closeBefore_of_noClosure hc']
  unfold Frame.isOrder
  cases f.payload <;> rfl

/-- The CLOSE of the station's own accepted frame ends its attempt and hands it over as its own. -/
theorem exec_frameClose_of_receivesOwn {s : State} {a : Attempt} {f : Frame} (h : s.receivesOwn a f) :
    exec .frameClose s =
      .next (if f.isOrder then ((s.atClose.attemptSent a).handFrame f (some a)).setHold
        else (s.atClose.attemptSent a).handFrame f (some a)) := by
  obtain ⟨h1, h2, hl, h3, h4, h5, h6⟩ := h
  rcases hr : s.fe.rx with _ | r <;> simp only [hr] at h6
  obtain ⟨h7, h8, h9⟩ := h6
  have hs : s.sending = some a := State.sending_of_unfaulted h3 h4
  have hn : s.underTest = none := by
    simp only [State.underTest, hs, Option.bind_some, hr, Attempt.bitAt]
    rw [List.getElem?_eq_none h8]
    rfl
  have hq := State.quietPassed_of_none (State.pulseDue_of_none hn) (140 - s.lif.lasted)
  have hu : (s.onLif (Lif.pass (140 - s.lif.lasted))).underTest = none := hn
  have hs2 : (((s.onLif (Lif.pass (140 - s.lif.lasted))).onLif Lif.closed).onFe Fe.endRoll).sending = some a := hs
  simp only [exec, execFrameClose, live_of_high h1, h2, hl, hr, and_self, if_true, State.closeSeen, hq, hu,
    Option.isSome_none, Bool.false_eq_true, if_false, h9, State.acceptedFrame, h7, hs2, State.close_eq_atClose]

/-! ### The discard of a frame (R164) -/

theorem State.discardFrame_of_none {s : State} (h : s.fe.rx = none) : s.discardFrame = s := by
  simp [State.discardFrame, h]

/-- Outside FOUNDING a discard forgets the frame and sets the hold. -/
theorem State.discardFrame_of_some {s : State} {r : Reception} (h : s.fe.rx = some r) (hs : s.tc.state ≠ .founding) :
    s.discardFrame = { s with fe := { s.fe with rx := none, hold := true } } := by
  have : (s.onFe fun f => { f with rx := none, hold := true }).tc.state ≠ .founding := hs
  simp only [State.discardFrame, h, State.foundingAbort_of_not this, ite_self]
  rfl

/-! ### The roll's end (R177) -/

theorem State.cutRoll_of_not {s : State} (h : s.lif.inRoll = false) : s.cutRoll = s := by simp [State.cutRoll, h]

/-- A roll that goes to no block is forgotten. -/
theorem State.handRoll_of_none {s : State} (h : s.fe.rollUse = .none) (roll : Roll) :
    s.handRoll roll = s.onFe Fe.endRoll := by
  simp [State.handRoll, h]

/-- A roll with a DAMAGED slot is unreadable, whatever its other slots. -/
theorem rollOf_of_damaged {slots : List SlotReading} (h : SlotReading.damaged ∈ slots) : rollOf slots = .unreadable := by
  simp [rollOf, h]

/-- A roll without a DAMAGED slot holds exactly the stations found asserted. -/
theorem rollOf_of_readable {slots : List SlotReading} (h : SlotReading.damaged ∉ slots) :
    ∃ set, rollOf slots = .readable set ∧
      ∀ k : Station, StationSet.has set k = true ↔ slots[k.val]? = some .asserted := by
  refine ⟨(List.finRange 16).foldl (fun s k => if slots[k.val]? = some .asserted then StationSet.add s k else s) 0,
    by simp [rollOf, h], fun k => ?_⟩
  have key : ∀ (l : List Station) (s0 : StationSet),
      StationSet.has (l.foldl (fun s k => if slots[k.val]? = some .asserted then StationSet.add s k else s) s0) k = true ↔
        StationSet.has s0 k = true ∨ (k ∈ l ∧ slots[k.val]? = some .asserted) := by
    intro l
    induction l with
    | nil => simp
    | cons j l ih =>
      intro s0
      rw [List.foldl_cons, ih]
      by_cases hj : slots[j.val]? = some .asserted
      · rw [if_pos hj]
        by_cases e : j = k
        · subst e; simp [hj]
        · simp [e, Ne.symm e]
      · rw [if_neg hj]
        by_cases e : j = k
        · subst e; simp [hj]
        · simp [Ne.symm e]
  rw [key]
  simp

/-! ### The lag event (R65) -/

/-- The tickets end with their LOST notices in ascending zone order. -/
theorem State.loseTickets_eq (turn : Turn) (s : State) :
    s.loseTickets turn =
      { s with
        ru := (Ru.loseEach turn .lag (List.finRange 64) s.ru).1
        hp := s.hp.posts (s.ru.lostNotices turn .lag) } := by
  have e : s.ru.lostNotices turn .lag = (Ru.loseEach turn .lag (List.finRange 64) s.ru).2 := by
    rw [Ru.loseEach_notices _ _ _ (List.nodup_finRange 64)]
    rfl
  simp only [State.loseTickets, State.postAll_eq, e]
  rfl

/-- The requests go with their CANCELLED notices, oldest first. -/
theorem State.cancelRequests_eq (why : Reason) (s : State) :
    s.cancelRequests why =
      { s with
        fe := (s.fe.withdraw .request).withdraw .touch
        ru := { s.ru with queue := [], touchFlag := false, touchOnLine := false, touchTries := 0 }
        hp := s.hp.posts (s.ru.cancelledNotices why) } := by
  simp only [State.cancelRequests, State.postAll_eq]
  rfl

/-- After a lag event the station is in HAILING or, with auto-rejoin off, in OFFLINE (R71). -/
@[simp] theorem State.afterLag_tc (s : State) :
    s.afterLag.tc = { s.tc with state := if s.hp.autoRejoin then .hailing else .offline } := by
  unfold State.afterLag
  split <;> simp_all
@[simp] theorem State.afterLag_pending (s : State) : s.afterLag.pending = s.pending := by unfold State.afterLag; split <;> rfl
@[simp] theorem State.afterLag_pins (s : State) : s.afterLag.pins = s.pins := by unfold State.afterLag; split <;> rfl
@[simp] theorem State.afterLag_lif (s : State) : s.afterLag.lif = s.lif := by unfold State.afterLag; split <;> rfl
@[simp] theorem State.afterLag_ztu (s : State) : s.afterLag.ztu = s.ztu := by unfold State.afterLag; split <;> rfl
@[simp] theorem State.afterLag_ru (s : State) : s.afterLag.ru = s.ru := by unfold State.afterLag; split <;> rfl
@[simp] theorem State.afterLag_hp (s : State) : s.afterLag.hp = s.hp := by unfold State.afterLag; split <;> rfl
@[simp] theorem State.afterLag_freeUsed (s : State) : s.afterLag.freeUsed = s.freeUsed := by unfold State.afterLag; split <;> rfl
@[simp] theorem State.afterLag_cu (s : State) : s.afterLag.cu = if s.hp.autoRejoin then s.cu.stopLog else s.cu := by
  unfold State.afterLag
  split <;> rfl
@[simp] theorem State.afterLag_fe (s : State) :
    s.afterLag.fe = if s.hp.autoRejoin then { s.fe.withdraw .join with hail := some 0 } else s.fe := by
  unfold State.afterLag
  split <;> rfl

/-- The source side closed: the stream abandoned, its frame withdrawn, nobody waiting (R65, R69, R82). -/
theorem State.closeSource_eq (s : State) :
    s.closeSource = { s with cu := { s.cu.abandon with waiting := 0 }, fe := s.fe.withdraw .copy } := rfl

/-- Everything a lag event does to each block (R65). -/
theorem State.lagEvent_spec (r : LagReason) (s : State) :
    (s.lagEvent r).tc =
      { state := if s.hp.autoRejoin then .hailing else .offline, turn := 0, lastApplied := none, roster := 0,
        closure := none, waitTimer := none } ∧
    (s.lagEvent r).ztu = Ztu.reset ∧
    (s.lagEvent r).cu = { Cu.reset with streamNo := s.cu.streamNo } ∧
    (s.lagEvent r).ru =
      { (Ru.loseEach s.tc.turn .lag (List.finRange 64) s.ru).1 with
        queue := [], touchFlag := false, touchOnLine := false, touchTries := 0 } ∧
    (s.lagEvent r).fe =
      (let f := ((((s.fe.withdraw .rept).withdraw .join).withdraw .request).withdraw .touch).withdraw .copy
       if s.hp.autoRejoin then { f.withdraw .join with hail := some 0 } else f) ∧
    (s.lagEvent r).hp =
      s.hp.posts (laggedNotice r s.tc.turn :: (s.ru.lostNotices s.tc.turn .lag ++ s.ru.cancelledNotices .lag)) ∧
    (s.lagEvent r).lif = s.lif ∧ (s.lagEvent r).pins = s.pins ∧ (s.lagEvent r).pending = s.pending ∧
    (s.lagEvent r).freeUsed = s.freeUsed := by
  have hq : (Ru.loseEach s.tc.turn .lag (List.finRange 64) s.ru).1.cancelledNotices .lag =
      s.ru.cancelledNotices .lag := by
    rw [Ru.loseEach_rest]
    rfl
  unfold State.lagEvent
  simp only [State.loseTickets_eq, State.cancelRequests_eq, State.closeSource_eq, State.afterLag_tc,
    State.afterLag_ztu, State.afterLag_cu, State.afterLag_ru, State.afterLag_fe, State.afterLag_hp, State.afterLag_lif,
    State.afterLag_pins, State.afterLag_pending, State.afterLag_freeUsed, State.onCu_tc, State.onCu_ztu, State.onCu_cu,
    State.onCu_ru, State.onCu_fe, State.onCu_hp, State.onCu_lif, State.onCu_pins, State.onCu_pending,
    State.onCu_freeUsed, State.discardTable_tc, State.discardTable_ztu, State.discardTable_cu, State.discardTable_ru,
    State.discardTable_fe, State.discardTable_hp, State.discardTable_lif, State.discardTable_pins,
    State.discardTable_pending, State.discardTable_freeUsed, State.post_tc, State.post_cu, State.post_ru, State.post_fe,
    State.post_hp, State.post_lif, State.post_pins, State.post_pending, State.post_freeUsed, State.onFe_tc,
    State.onFe_cu, State.onFe_ru, State.onFe_fe, State.onFe_hp, State.onFe_lif, State.onFe_pins, State.onFe_pending,
    State.onFe_freeUsed, State.stopWait_tc, State.stopWait_cu, State.stopWait_ru, State.stopWait_fe, State.stopWait_hp,
    State.stopWait_lif, State.stopWait_pins, State.stopWait_pending, State.stopWait_freeUsed, hq, Hp.posts_autoRejoin,
    Hp.post_autoRejoin, Hp.posts_cons, Hp.posts_append, and_true, true_and]
  unfold Cu.clearRequester Cu.stopLog Cu.abandon Cu.reset
  split <;> rfl

/-! ### The closure (R43 to R45) -/

/-- A closure that is taken ends in a lag event or in an eviction, and nothing else (R43). -/
theorem State.takeClosure_cases (s : State) :
    (s.noClosure ∧ s.takeClosure = s) ∨
      ∃ c, s.tc.closure = some c ∧ c.closed = false ∧
        ((∃ r, c.ending s.self = .lag r ∧ s.takeClosure = s.lagEvent r) ∨
          ∃ e, c.ending s.self = .evict e ∧ s.takeClosure = s.closeRecord c) := by
  rcases hc : s.tc.closure with _ | c
  · have h : s.noClosure := by unfold State.noClosure; rw [hc]; trivial
    exact .inl ⟨h, State.takeClosure_of_noClosure h⟩
  · cases hcl : c.closed with
    | true =>
      have h : s.noClosure := by unfold State.noClosure; rw [hc]; exact hcl
      exact .inl ⟨h, State.takeClosure_of_noClosure h⟩
    | false =>
      have h : s.takeClosure = s.closeRecord c := by simp [State.takeClosure, hc, hcl]
      refine .inr ⟨c, rfl, hcl, ?_⟩
      cases he : c.ending s.self with
      | lag r => exact .inl ⟨r, rfl, by rw [h]; simp [State.closeRecord, he]⟩
      | evict e => exact .inr ⟨e, rfl, h⟩

/-- A closure that evicts nobody closes the record and nothing of the table (R44, R45). -/
theorem State.closeRecord_of_nobody {s : State} {c : ClosureRecord} (h : c.ending s.self = .evict 0) :
    s.closeRecord c = s.closureEffects c := by
  simp [State.closeRecord, h]

end Sys2Proof.Machine
end

