-- ==== Sys2Proof/WellFormed.lean ====
section
/-! DEFINITION. The well-formed commands: each pulse or stretch a command carries has a length that its row of the table
admits, and a BAD_COMMAND carries a code that names no command. -/

namespace Sys2Proof

open Machine

/-- The stretch is a pulse, seen by the filter, with one of these readings (R145, R148). -/
def Stretch.reads (pulse : Stretch) (which : PulseReading → Bool) : Bool :=
  (Stretch.seen pulse).any fun n => which (readPulse n)

/-- The stretch is a pulse with one of these readings, seen by the filter, or the rest of a level that stood on LRX at a
reset (R145). -/
def Stretch.readsOn (pulse : Stretch) (which : PulseReading → Bool) : Bool :=
  (Stretch.running pulse).any fun n => which (readPulse n)

/-- A reading that a pulse of damage can have: that of any seen pulse below 40Q (R152, R155, Table 7.2-2). -/
def PulseReading.mayDamage : PulseReading → Bool
  | .unseen => false
  | .stuck => false
  | _ => true

/-- A cause of damage: a pulse, after a recessive stretch of any length, or a stretch that reads damage. -/
def DamageCause.wf : DamageCause → Bool
  | .pulse gap dominant => (Stretch.seen gap).isSome && Stretch.reads dominant PulseReading.mayDamage
  | .stretch gap => (Stretch.seen gap).any isGapDamage

/-- A failed test: its pulse or stretch lies before the point of the test (Table 8.7-1), at the latest the OPEN's. -/
def FaultForm.wf : FaultForm → Bool
  | .early pulse => (Stretch.seen pulse).any (· < Symbol.openSymbol.window.1)
  | .late => true
  | .edge gap => (Stretch.seen gap).any (· < 20)
  | .damaged cause => cause.wf
  | .absent => true

/-- The command is one of its row: its lengths on the filtered level lie in the windows of R148 to R150 and its code in Table
9.4-2's remainder. Every other operand is valid at every value. -/
def Instr.wf : Instr → Bool
  | .openPulse pulse => Stretch.readsOn pulse (· == .openSymbol)
  | .halt pulse => Stretch.readsOn pulse (· == .halt)
  | .dataBit gap pulse =>
    (Stretch.seen gap).any isSeparation && Stretch.reads pulse fun x => x == .bit false || x == .bit true
  | .damage cause => cause.wf
  | .bitFault form => form.wf
  | .ownSlotDrive first later => (stretchLengths first later).isSome
  | .slotRead first later => (stretchLengths first later).isSome
  | .quietCountReset pulse => pulse ≠ [] && (Stretch.running pulse).isSome
  | .badCommand code => operandCount code == none
  | _ => true

end Sys2Proof
end

