-- ==== Sys2Proof/Tests/Slice0.lean ====
section
/-! SUPPORT. The tests: the ill-formed commands, the manual's own examples, single steps of each command, and for every
statement with hypotheses a concrete state that meets them. Expected values come from the manual, cited at each test. -/

namespace Sys2Proof.Tests

open Sys2Proof Sys2Proof.Machine

-- One theorem at a time: the kernel evaluations below wait for one another, each on a thread's stack of its own.
set_option Elab.async false

/-! ### States and frames of the tests -/

/-- The state after a command. -/
def after (c : Instr) (s : State) : State :=
  match exec c s with
  | .next t => t
  | _ => s

/-- A zone record. -/
def zrec (st : ZoneState) (holders : StationSet) (queue : List Waiting) : ZoneRec :=
  { state := st, holders := holders, queue := queue }

/-- A waiting entry. -/
def wait (k : Station) (m : Mode) : Waiting := { station := k, mode := m }

/-- The FREE table with some records replaced and a free count. -/
def tableOf (recs : List (Zone × ZoneRec)) (free : Nat) : Ztu :=
  { recs.foldl (fun t r => t.setZone r.1 r.2) Ztu.reset with free := free }

/-- RESETN held LOW. -/
def held : State := { State.reset with pins := { resetLow := true, csnLow := false } }

/-- After reset, with a transaction just opened. -/
def offline : State :=
  { State.reset with
    pins := { resetLow := false, csnLow := true }
    hp := { State.reset.hp with txn := some { sampled := [], taken := none } } }

/-- Station 2 of the group {0, 2, 5, 9} in MEMBER at T = 417 on an IDLE line, zone 7 held by station 9 and wanted by
station 0, with a transaction just opened (Section 2.8). -/
def member : State :=
  { offline with
    lif := { Lif.reset false with line := .idle }
    tc := { Tc.reset with state := .member, turn := 417, roster := 0x0225#16,
                          lastApplied := some { orig := 0, turn := 416, check := 5 } }
    ztu := tableOf [(7, zrec .exclusive 0x0200#16 [wait 0 .exclusive])] 95
    hp := { Hp.pinReset 2 0 with notices := [], txn := some { sampled := [], taken := none } } }

/-- The line in another state. -/
def onLine (l : LineState) (s : State) : State := { s with lif := { s.lif with line := l } }

/-- An order frame of station `k`. -/
def orderFrom (k : Station) (op : OrderOp) (turn : Turn) : Frame :=
  { payload := .order op, repNo := 0, orig := k, turn := turn }

/-- A frame received whole. -/
def received (f : Frame) (mark : Bool) : Reception := f.bits.foldl Reception.push (Reception.start mark)

/-- A frame of another station stands complete in reception. -/
def receiving (f : Frame) (s : State) : State :=
  { s with lif := { s.lif with line := .busy .frame }, fe := { s.fe with rx := some (received f false) } }

/-- The attempt of a frame. -/
def attempt (src : Source) (f : Frame) : Attempt := attemptOf src f

/-- An own frame received back whole. -/
def receivingOwn (src : Source) (f : Frame) (s : State) : State :=
  { s with
    lif := { s.lif with line := .busy .frame }
    fe := { s.fe with rx := some (received f true), tx := some (attempt src f) } }

/-- A request in the queue. -/
def req (tag : Byte) (op : ReqOp) (tries : Nat := 0) (onLine : Bool := false) : Request :=
  { tag := tag, op := op, tries := tries, onLine := onLine }

/-- The request queue replaced. -/
def queued (qs : List Request) (s : State) : State := { s with ru := { s.ru with queue := qs } }

/-- The station state replaced. -/
def inState (st : StationState) (s : State) : State := { s with tc := { s.tc with state := st } }

/-- A closure record of a TOUCH at turn 417 with the whole group expected. -/
def record : ClosureRecord :=
  { orig := 2, turn := 417, check := 9, op := .touch, expected := 0x0225#16, lastRoll := none, repSeen := 0, own := true,
    foreign := false, closed := false }

/-- The closure record replaced. -/
def closing (c : ClosureRecord) (s : State) : State := { s with tc := { s.tc with closure := some c } }

/-- A command taken, with `n` bits of its reply out. -/
def takenAt (c : HostCmd) (reply : List Byte) (n : Nat) (reported : Bool) (s : State) : State :=
  { s with
    hp := { s.hp with
      txn := some
        { sampled := bitsOf c.bytes
          taken := some { cmd := c, reply := reply, shifted := n, reported := reported, discards := 0 } } } }

/-- Some bits sampled and no command taken. -/
def sampledBits (bits : List Bool) (s : State) : State :=
  { s with hp := { s.hp with txn := some { sampled := bits, taken := none } } }

/-- Seven TOUCH requests with the tags 1 to 7. -/
def seven : List Request :=
  [req 1 .touch, req 2 .touch, req 3 .touch, req 4 .touch, req 5 .touch, req 6 .touch, req 7 .touch]

/-! ### Ill-formed commands (R148 to R152, R192) -/

/-- The window of the OPEN is 4Q to 6Q, 160 to 240 fortieths (Table 7.2-2). A dropout below 1/8Q is part of the pulse, one of
1/8Q is not; what comes before the level has held for 1/8Q counts for a level that stood on LRX at a reset (R145). -/
theorem test_wf_open :
    [[159], [160], [240], [241], [5, 4, 151], [100, 5, 60], [4, 4, 160], []].map (fun x => (Instr.openPulse x).wf) =
      [false, true, true, false, true, false, true, false] := by decide

/-- A HALT is 10Q or longer and shorter than 40Q (Table 7.2-2, R155). -/
theorem test_wf_halt :
    [399, 400, 1599, 1600].map (fun len => (Instr.halt [len]).wf) = [false, true, true, false] := by decide

/-- A bit follows a stretch of 0.5Q to 1.5Q and is 0.5Q to 1.4Q or 1.6Q to 2.6Q long (Tables 7.2-2 and 7.2-3). -/
theorem test_wf_dataBit :
    [(19, 40), (20, 40), (60, 40), (61, 40), (40, 19), (40, 57), (40, 63), (40, 64), (40, 104), (40, 105)].map
        (fun p => (Instr.dataBit [p.1] [p.2]).wf) =
      [false, true, true, false, false, false, false, true, true, false] := by decide

/-- A pulse of damage is seen, and no 40Q of dominant. -/
theorem test_wf_damagePulse :
    [4, 5, 1599, 1600].map (fun len => (Instr.damage (.pulse [40] [len])).wf) = [false, true, true, false] := by
  decide +kernel

/-- A stretch that is a separation, or long enough for the CLOSE, is no damage (Table 7.2-3). -/
theorem test_wf_damageStretch :
    [19, 20, 60, 61, 139, 140].map (fun gap => (Instr.damage (.stretch [gap])).wf) =
      [true, false, false, true, true, false] := by decide

/-- Between two reports the filtered level changes only to a level that LRX holds for 1/8Q (R145). -/
theorem test_wf_slotRead :
    [([80], []), ([20], [[4], [56]]), ([20], [[5], [55]]), ([20, 5, 55], []), ([], [[40], [35, 4, 1]])].map
        (fun p => (Instr.slotRead p.1 p.2).wf) =
      [true, false, true, false, true] := by decide

/-- A pulse that starts the count of quiet again is one level: seen, or the rest of one that stood on LRX at a reset (R145,
R154, R156). -/
theorem test_wf_quietCountReset :
    [[], [4], [20, 5, 20], [1600]].map (fun x => (Instr.quietCountReset x).wf) = [false, true, false, true] := by
  decide +kernel

/-- A pulse is too short below 4.5Q at most, and a dominant edge comes too early before 0.5Q (Table 8.7-1). -/
theorem test_wf_bitFault :
    [FaultForm.early [179], .early [180], .edge [19], .edge [20], .damaged (.stretch [20]), .late].map
        (fun form => (Instr.bitFault form).wf) = [true, false, true, false, false, true] := by decide

/-- A code of Table 6.1-1 is no bad command (R124). -/
theorem test_wf_badCommand :
    [0x10#8, 0x5A#8, 0x00#8, 0x12#8].map (fun code => (Instr.badCommand code).wf) = [false, false, true, true] := by
  decide

/-! ### The table word (spec/opcode_table.json gives no row any bits) -/

theorem test_decode_none : decodeTableWord 16 0x1234 = none := rfl

theorem test_withFetchWord_unchanged : member.withFetchWord 16 0x1234 = member := rfl

/-! ### Formats (Section 9) -/

/-- R181's example: the set of stations 0, 2, 5 and 9 is 0225h. -/
theorem test_set_0225 : [0, 2, 5, 9].foldl StationSet.add 0 = 0x0225#16 := by decide

/-- R161's check value: the ASCII digits 1 to 9 give 29B1h. -/
theorem test_crc : crcBytes [0x31, 0x32, 0x33, 0x34, 0x35, 0x36, 0x37, 0x38, 0x39] = 0x29B1#16 := by decide +kernel

/-- Table 9.2-5: the CLAIM of zone 7 EXCLUSIVE by station 2 at turn 417, bytes 0 to 6. -/
theorem test_frame_bytes :
    (orderFrom 2 (.claim 7 .exclusive) 417).bytes.take 7 = [0xB4#8, 0x12#8, 0x02#8, 0x01#8, 0xA1#8, 0x07#8, 0x01#8] ∧
      ({ orderFrom 2 (.claim 7 .exclusive) 417 with repNo := 1 } : Frame).byte0 = 0xF5#8 ∧
      (orderFrom 2 (.claim 7 .exclusive) 417).bits.length = 72 := by decide +kernel

/-- Section 9.3: zone 9, SHARED with holders {6, 7} and a queue of 1 EX, is 09h 81h 00h C0h 10h. -/
theorem test_copyRecord :
    (copyRecOf 9 (zrec .shared 0x00C0#16 [wait 1 .exclusive])).bytes = [0x09#8, 0x81#8, 0x00#8, 0xC0#8, 0x10#8] := by
  decide

/-- Section 9.5: the OUTCOME for tag 10, CLAIM, QUEUED, zone 6 at turn 101. -/
theorem test_notice_outcome :
    ((req 10 (.claim 6 .exclusive)).outcome .queued 101).bytes =
      [0x02#8, 0x0A#8, 0x01#8, 0x06#8, 0xFF#8, 0x00#8, 0x65#8, 0x02#8] := by decide

/-- Section 9.5: READ-ZONE of zone 6 at station 4 after the grant. -/
theorem test_zoneReply :
    zoneReply 6 (zrec .exclusive 0x0010#16 []) (.holding 10 .exclusive) =
      [0x06#8, 0x01#8, 0x00#8, 0x10#8, 0x00#8] ++ List.replicate 16 0xFF#8 ++ [0x02#8, 0x0A#8, 0x01#8] := by decide

/-- Section 10.3.2: the records of 6, 4, 6, 6 and 4 bytes fill a part of 22 bytes and a part of 4. -/
theorem test_packing :
    (packParts
      [copyRecOf 5 (zrec .exclusive 0x0080#16 [wait 12 .shared, wait 1 .shared]),
        copyRecOf 18 (zrec .shared 0x1002#16 []),
        copyRecOf 33 (zrec .exclusive 0x0002#16 [wait 7 .exclusive, wait 12 .exclusive]),
        copyRecOf 60 (zrec .exclusive 0x1000#16 [wait 1 .shared, wait 7 .shared]),
        copyRecOf 61 (zrec .shared 0x1000#16 [])]).map (fun p => (p.map CopyRec.size).sum) = [22, 4] := by decide

/-! ### The zone table (Sections 1.12 and 10.2) -/

/-- Table 1.12-1, step 3: the SHARED claim behind an EXCLUSIVE entry is queued. -/
theorem test_claim_queued :
    let e := (tableOf [(12, zrec .shared 0x0008#16 [wait 1 .exclusive])] 95).apply 0x003E#16 4 2 (.claim 12 .shared)
    e.outcome = .queued ∧ e.ztu.zone 12 = zrec .shared 0x0008#16 [wait 1 .exclusive, wait 4 .shared] ∧
      e.ztu.free = 94 := by decide +kernel

/-- Table 1.12-1, step 5: the withdrawal of the EXCLUSIVE head grants the SHARED run behind it. -/
theorem test_release_withdrawn :
    let e := (tableOf [(12, zrec .shared 0x0008#16 [wait 1 .exclusive, wait 4 .shared, wait 5 .shared])] 93).apply
      0x003E#16 1 2 (.release 12)
    e.outcome = .withdrawn ∧ e.ztu.zone 12 = zrec .shared 0x0038#16 [] ∧ e.ztu.free = 96 ∧
      e.grants = [{ zone := 12, entry := wait 4 .shared }, { zone := 12, entry := wait 5 .shared }] := by decide +kernel

/-- Table 1.12-1, step 9: the last holder's release grants the EXCLUSIVE head. -/
theorem test_release_grants :
    let e := (tableOf [(12, zrec .shared 0x0020#16 [wait 2 .exclusive])] 95).apply 0x003E#16 5 2 (.release 12)
    e.outcome = .released ∧ e.ztu.zone 12 = zrec .exclusive 0x0004#16 [] ∧ e.ztu.free = 96 ∧ e.ownGrants 2 = [12] := by
  decide +kernel

/-- The table before the removal of Table 1.12-2. -/
def beforeRemoval : Ztu :=
  tableOf
    [(3, zrec .exclusive 0x0004#16 [wait 6 .exclusive, wait 4 .shared, wait 7 .shared]),
      (9, zrec .shared 0x00C0#16 [wait 1 .exclusive]), (20, zrec .exclusive 0x0010#16 [wait 2 .shared])] 91

/-- Table 1.12-3, the last row: the eviction of stations 2 and 6. -/
theorem test_removal :
    let e := beforeRemoval.remove 0x00D6#16 0x0044#16 7
    e.ztu.zone 3 = zrec .shared 0x0090#16 [] ∧ e.ztu.zone 9 = zrec .shared 0x0080#16 [wait 1 .exclusive] ∧
      e.ztu.zone 20 = zrec .exclusive 0x0010#16 [] ∧ e.ztu.free = 95 ∧ e.roster = 0x0092#16 ∧ e.ownGrants 7 = [3] := by
  decide +kernel

/-- The table before the JOIN of Table 1.12-4. -/
def beforeJoin : Ztu :=
  tableOf [(40, zrec .exclusive 0x0020#16 [wait 3 .exclusive]), (41, zrec .exclusive 0x0100#16 [wait 5 .shared])] 94

/-- Table 1.12-4, the last row: the readmission of station 5. -/
theorem test_readmission :
    let e := beforeJoin.apply 0x0128#16 5 8 .join
    e.ztu.zone 40 = zrec .exclusive 0x0008#16 [] ∧ e.ztu.zone 41 = zrec .exclusive 0x0100#16 [] ∧ e.ztu.free = 96 ∧
      e.roster = 0x0128#16 ∧ e.outcome = .done := by decide +kernel

/-- Table 10.2-3: the removal of station 13 stops at the EXCLUSIVE entry behind the SHARED run. -/
theorem test_removal_run :
    let e := (tableOf
      [(40, zrec .exclusive 0x2000#16 [wait 4 .shared, wait 6 .shared, wait 0 .exclusive, wait 10 .shared]),
        (41, zrec .exclusive 0x0001#16 [wait 13 .exclusive, wait 6 .shared])] 90).remove 0x2451#16 0x2000#16 4
    e.ztu.zone 40 = zrec .shared 0x0050#16 [wait 0 .exclusive, wait 10 .shared] ∧
      e.ztu.zone 41 = zrec .exclusive 0x0001#16 [wait 6 .shared] ∧ e.ztu.free = 93 := by decide +kernel

/-! ### Single commands -/

/-- Right after reset the STATUS reply's data reads OFFLINE, wait limit 16 and auto-rejoin (R128, R131, Table 6.4-1). -/
theorem test_status_reset :
    State.reset.statusData =
      [0x00#8, 0x00#8, 0x00#8, 0x00#8, 0x00#8, 0x00#8, 0x00#8, 0x00#8, 0x01#8, 0x00#8, 0x00#8, 0x00#8, 0x10#8, 0x01#8] := by
  decide

/-- R134: a FETCH reports the notice and leaves it in the queue until the end of its reply. -/
theorem test_fetch_keeps : (after .fetch offline).hp.notices.length = 1 := by decide +kernel

theorem test_fetchReplyEnd_removes : (after .fetchReplyEnd (after .fetch offline)).hp.notices = [] := by decide +kernel

/-- R126: a transaction that ends after some bits with no command taken sets the truncated flag. -/
theorem test_transactionEnd_truncated : (after (.transactionEnd false) (sampledBits [true] offline)).hp.truncated = true := by
  decide

/-- R142: RESTART is carried out at the rise of CSN and keeps the straps and the configuration. -/
theorem test_restart :
    let t := after (.transactionEnd false) (after .restart { member with hp := { member.hp with waitLimit := 3 } })
    t.tc.state = .offline ∧ t.hp.station = 2 ∧ t.hp.waitLimit = 3 ∧ t.hp.notices = [readyNotice 2 .softReset] := by
  decide +kernel

/-- R145: a RESTART in the roll window goes by the level on LRX there. A pulse of the last report has ended since, and 48Q of
quiet make the line IDLE. One has begun since, and it counts from there. -/
theorem test_restart_inTheRoll :
    let s (low : Bool) : State :=
      after .restart { member with lif := { Lif.reset low with line := .busy .roll, lasted := 60, slotHeld := none } }
    (after .syncQuiet (after (.transactionEnd false) (s true))).lif.line = .idle ∧
      (let t := after (.transactionEnd true) (s false)
       t.lif.line = .unsynced ∧ t.lif.low = true ∧ t.lif.lasted = 0) := by decide +kernel

/-- R124: the eight bits of a FETCH, bit by bit, take it at the last. -/
theorem test_sckRisingEdge_takes :
    (after (.sckRisingEdge false) (sampledBits [false, true, false, false, false, false, false] member)).hp.txn =
      (after .fetch member).hp.txn := by decide +kernel

/-- R52: JOIN outside OFFLINE is answered STATE (03h). -/
theorem test_join_member : (after .join member).hp.txn.bind (fun t => t.taken.map fun k => k.reply) = some [0x03#8] := by
  decide +kernel

/-- Section 5.8: a CLAIM of a zone whose ticket is WAITING is answered BUSY-ZONE (06h). -/
theorem test_submit_busy :
    let s := { member with ru := member.ru.setTicket 6 (.waiting 10 .exclusive) }
    (after (.submit 1 12 6 2) s).hp.txn.bind (fun t => t.taken.map fun k => k.reply) = some [0x06#8] := by
  decide +kernel

/-- Section 2.8: the CLAIM of station 0 at turn 417 advances T and opens its closure with the whole roster expected. -/
theorem test_frameClose_applies :
    let t := after .frameClose (receiving (orderFrom 0 (.claim 9 .shared) 417) member)
    t.tc.turn = 418 ∧ (t.tc.closure.map fun c => c.expected) = some 0x0225#16 ∧ t.fe.slotRequest = true ∧
      t.ztu.zone 9 = zrec .shared 0x0001#16 [] := by decide +kernel

/-- Table 3.12-1: a frame one turn ahead is a gap, and with auto-rejoin set the station hails. -/
theorem test_frameClose_gap :
    let t := after .frameClose (receiving (orderFrom 0 .touch 418) member)
    t.tc.state = .hailing ∧ t.tc.turn = 0 ∧ (t.hp.notices.map fun n => n.bytes) =
      [[0x0A#8, 0xFF#8, 0xFF#8, 0xFF#8, 0xFF#8, 0x01#8, 0xA1#8, 0x20#8]] := by decide +kernel

/-- Section 2.8: the final roll {0, 2, 5} closes at its REST_END, evicts station 9, and the head of zone 7 is granted. -/
theorem test_restEnd_evicts :
    let s := closing { record with repSeen := 3 } (onLine (.busy .rest) member)
    let slots := (List.range 16).map fun k => if k = 0 ∨ k = 2 ∨ k = 5 then SlotReading.asserted else .empty
    let t := after .restEnd { s with fe := { s.fe with rollUse := .order, slots := slots, hold := true } }
    t.tc.roster = 0x0025#16 ∧ t.ztu.zone 7 = zrec .exclusive 0x0001#16 [] ∧
      (t.tc.closure.map fun c => c.closed) = some true ∧ t.lif.line = .idle ∧ t.fe.yieldTimer = some 0 := by
  decide +kernel

/-- Table 8.10-2: a COPY frame's first bit is BIT0, and found dominant it loses without a try. -/
theorem test_arbitrationLost :
    let f : Frame := { payload := .copyPart (List.replicate 6 0), repNo := 0, orig := 2, turn := 0 }
    let s := onLine (.busy .frame) member
    let t := after .arbitrationLost (after .bitDrive
      { s with fe := { s.fe with tx := some (attempt .copy f), rx := some (Reception.start true), copy := some 3 } })
    t.fe.tx = none ∧ t.fe.copy = some 3 := by decide +kernel

/-- R147, R173: an own OPEN found recessive too early and read as one of 4.25Q keeps its mark, and its HALT goes on for 12Q
from the fault. -/
theorem test_openPulse_faulted :
    let s := after .frameTake { inState .hailing member with fe := { member.fe with hail := some 0 } }
    let t := after (.openPulse [170]) (after (.bitFault (.early [170])) s)
    (t.fe.rx.map fun r => r.mark) = some true ∧ t.lif.drive = some { symbol := .haltSymbol, left := 480 } := by
  decide +kernel

/-- R147, R172: after an own OPEN of 5Q that LRX showed as one of 4.5Q, the first bit is driven 1Q after the line went
recessive. -/
theorem test_bitDrive_afterShortPulse :
    let f : Frame := { payload := .hail, repNo := 0, orig := 2, turn := 0 }
    let s := after .frameTake { inState .hailing member with fe := { member.fe with hail := some 0 } }
    (after .bitDrive (after (.openPulse [180]) s)).lif.drive = some { symbol := .bit false, left := 40 } ∧
      f.bits[0]? = some false := by decide +kernel

/-- R172, R173: an own OPEN that LRX does not show within its 5Q is a bit fault, and the HALT is driven from there. The OPEN
that begins after it is another station's, and so is the frame. -/
theorem test_frameTake_openMissing :
    let s := after .frameTake { inState .hailing member with fe := { member.fe with hail := some 0 } }
    (s.tick.tick.tick.tick.fe.tx.map fun a => a.faulted) = some false ∧
      (let t := s.tick.tick.tick.tick.tick
       (t.fe.tx.map fun a => a.faulted) = some true ∧ t.lif.drive = some { symbol := .haltSymbol, left := 480 } ∧
         ((after (.openPulse [200]) t).fe.rx.map fun r => r.mark) = some false ∧ after (.bitFault .absent) s = t) := by decide +kernel

/-- R172: a bit driven from 1Q on, BIT0 for 1Q, whose pulse begins 1.25Q after the line went recessive, passes; one that has
not begun by 2Q, when the drive ends, is a bit fault, and so is a pulse at the place of a bit that is not driven. -/
theorem test_dataBit_withinTheDrive :
    let s := after (.openPulse [200]) (after .frameTake { inState .hailing member with fe := { member.fe with hail := some 0 } })
    let faulted (t : State) : Option Bool := t.fe.tx.map fun a => a.faulted
    faulted (after (.dataBit [50] [40]) (after .bitDrive s)) = some false ∧
      faulted (after .bitDrive s).tick = some true ∧ faulted (after (.bitFault .absent) (after .bitDrive s)) = some true ∧
      faulted (after (.dataBit [50] [40]) s) = some true := by decide +kernel

/-- R172: another sender's pulse that begins slightly before the own one is compared with it. -/
theorem test_dataBit_slightlyBefore :
    let s := after (.openPulse [200]) (after .frameTake { inState .hailing member with fe := { member.fe with hail := some 0 } })
    ((after (.dataBit [35] [40]) (after .bitDrive (after .lineDominant s))).fe.tx.map fun a => a.faulted) = some false := by
  decide +kernel

/-- R115, R175: the internal TOUCH of an attempt that a bit fault stopped, its HALT never shown, is withdrawn at a lag event,
and its later end counts no try. -/
theorem test_lagEvent_withdrawsTheTouch :
    let s := { member with
      ru := { member.ru with touchFlag := true, touchOnLine := true }
      fe := { member.fe with tx := some { attempt .touch (orderFrom 2 .touch 417) with faulted := true } } }
    (s.lagEvent .gap).endFaulted.ru.touchTries = 0 ∧ (s.lagEvent .gap).endFaulted.fe.tx = none := by decide +kernel

/-- R145: a BIT0 with a dropout below 1/8Q in it is one BIT0. -/
theorem test_dataBit_dropout :
    let s := onLine (.busy .frame) member
    ((after (.dataBit [40] [20, 4, 16]) { s with fe := { s.fe with rx := some (Reception.start false) } }).fe.rx.map
      fun r => r.bits) = some [false] := by decide +kernel

/-- R150: a pulse that has passed 1.4Q and runs on into the next slot makes that slot DAMAGED too. -/
theorem test_slotRead_held :
    (after (.slotRead [60] [[20]]) (after (.slotRead [20] [[60]])
      { onLine (.busy .roll) member with lif := { Lif.reset false with line := .busy .roll } })).fe.slots =
      [.damaged, .damaged] := by decide +kernel

/-- R155: a dominant level of 1.4Q at a report, two quanta more, and the next report at a point between them: the 40Q run from
its edge, 37 quanta later. -/
theorem test_slotRead_keepsTheCount :
    let s : State := { member with lif :=
      { Lif.reset true with line := .busy .roll, lasted := 56, slotAt := 26, slotHeld := some 56 } }
    let t := after (.slotRead [54] []) s.tick.tick
    t.fe.slots = [.damaged] ∧ t.lif.low = true ∧ t.lif.lasted = 136 ∧
      ((State.tick^[36]) t).lif.line = .busy .roll ∧ ((State.tick^[37]) t).lif.line = .stuck := by decide +kernel

/-- R150: a pulse of the second half that runs over is no valid one, and the slot in which it ends is DAMAGED too. -/
theorem test_slotRead_runsOver :
    (after (.slotRead [50] []) (after (.slotRead [60] [[50], []])
      { onLine (.busy .roll) member with lif := { Lif.reset false with line := .busy .roll } })).fe.slots =
      [.damaged, .damaged] := by decide +kernel

/-- R144, R150: the own slot is driven from its start, half a quantum after the CLOSE for station 0, and not once it has
begun. -/
theorem test_ownSlotDrive_late :
    let s (at' : Int) : State :=
      { onLine (.busy .roll) offline with
        lif := { Lif.reset false with line := .busy .roll, slotAt := at' }, fe := { offline.fe with slotRequest := true } }
    [(-20, 20), (0, 0), (1, 0)].map (fun p => (after (.ownSlotDrive [p.2] []) (s p.1)).ltxLow) = [true, true, false] ∧
      (after (.ownSlotDrive [40] []) (s (-20)).tick).ltxLow = false := by decide +kernel

/-- R150, R176: a pulse that has lasted 8.5Q at the start of slot 1 and stays for two quanta more has ended the window, so
slot 2 is neither driven nor is slot 1 reported. When it ends within slot 1, both come. -/
theorem test_ownSlotDrive_windowEnded :
    let s : State :=
      { onLine (.busy .roll) member with
        lif := { Lif.reset true with line := .busy .roll, lasted := 340, slotHeld := some 340 }
        fe := { member.fe with slotRequest := true, slots := [.damaged] } }
    [(after (.ownSlotDrive [80] []) s.tick.tick).ltxLow, (after (.ownSlotDrive [80] []) s).ltxLow,
        (after (.ownSlotDrive [59] [[21]]) s).ltxLow] = [false, false, true] ∧
      (after (.slotRead [80] []) s.tick.tick).fe.slots = [.damaged] ∧
      (after (.slotRead [59] [[21]]) s).fe.slots = [.damaged, .damaged] := by decide +kernel

/-- R150: the roll origin lies 4Q after the last recessive edge, also when the CLOSE is handled a quantum later: slot 0 has
begun half a quantum before. -/
theorem test_frameClose_origin :
    let t := after .frameClose (receiving (orderFrom 0 (.claim 9 .shared) 417) member)
    let u := after .frameClose (let r := receiving (orderFrom 0 (.claim 9 .shared) 417) member
                                { r with lif := { r.lif with lasted := 180 } })
    t.lif.slotAt + t.lif.sinceReport = -20 ∧ u.lif.slotAt + u.lif.sinceReport = 20 := by decide +kernel

/-- R145, R154: a level that stood dominant at a RESTART and ends within 1/8Q starts the count of quiet, which ends in IDLE.
-/
theorem test_quietCountReset_atReset :
    (after .syncQuiet (after (.quietCountReset [3]) { offline with lif := Lif.reset true })).lif.line = .idle := by
  decide +kernel

/-- R150: an OWN_SLOT_DRIVE without a request drives nothing. -/
theorem test_ownSlotDrive_unasked :
    (after (.ownSlotDrive [] []) { onLine (.busy .roll) member with fe := { member.fe with slots := [.empty, .empty] } }).lif.drive =
      none := by decide

/-- R144, Table 7.2-1: a BIT1 is driven for 2Q, and no longer. -/
theorem test_tick_endsTheDrive :
    let s : State := { member with lif := { member.lif with drive := some { symbol := .bit true, left := 80 } } }
    [s.ltxLow, s.tick.ltxLow, s.tick.tick.ltxLow] = [true, true, false] := by decide +kernel

/-- R155: LINE_STUCK posts one LINE-STUCK for the episode. -/
theorem test_lineStuck_once :
    ((after .lineStuck (after .lineStuck member)).hp.notices.map fun n => n.kind) = [.lineStuck] := by decide +kernel

/-- R50: the wait-probe timer sets the touch flag and stops. -/
theorem test_waitProbeRunOut :
    let t := after .waitProbeRunOut { member with tc := { member.tc with waitTimer := some 8192 } }
    t.ru.touchFlag = true ∧ t.tc.waitTimer = none := by decide

/-- The idle quantum (log entry 3): with the hold set the sixth one lets the yield interval lapse. -/
theorem test_tick_lapses :
    let t := ({ member with fe := { member.fe with hold := true, yieldTimer := some 5 } } : State).tick
    t.fe.hold = false ∧ t.fe.yieldTimer = none := by decide +kernel

/-! ### Witnesses: the hypotheses of each statement are met, at the boundaries of their ranges -/

/-- A transaction just opened is ready for every command. -/
theorem ready_of_opened {s : State} (h : s.pins.resetLow = false) (ht : s.hp.txn = some { sampled := [], taken := none })
    (c : HostCmd) : s.readyFor c := by
  unfold State.readyFor
  rw [ht]
  exact ⟨h, rfl, by cases c <;> simp [HostCmd.bytes], rfl⟩

theorem member_ready (c : HostCmd) : member.readyFor c := ready_of_opened rfl rfl c

theorem offline_ready (c : HostCmd) : offline.readyFor c := ready_of_opened rfl rfl c

/-- The command STATUS, one bit before its take, is ready as well. -/
theorem test_ready_lastBit : (sampledBits [false, false, false, true, false, false, false] member).readyFor .status :=
  ⟨rfl, rfl, by decide, by decide⟩

theorem test_witness_StepCarriesOutTheFrontCommand : State.reset.pending = [] := rfl

theorem test_witness_HeldResetIsDeaf : held.pins.resetLow = true := rfl

theorem test_witness_PinReset : held.pins.resetLow = true ∧ member.pins.resetLow = false := ⟨rfl, rfl⟩

theorem test_witness_StatusReportsTheState : member.readyFor .status := member_ready _

/-- Each clause: outside OFFLINE; in OFFLINE with the options 4 and 3. -/
theorem test_witness_ConfigureInOfflineAlone :
    (member.readyFor (.configure 0 3) ∧ member.tc.state ≠ .offline) ∧
      (offline.readyFor (.configure 0 4) ∧ offline.tc.state = .offline ∧ 4 ≤ (4#8).toNat) ∧
      (offline.readyFor (.configure 255 3) ∧ offline.tc.state = .offline ∧ (3#8).toNat < 4) :=
  ⟨⟨member_ready _, by decide⟩, ⟨offline_ready _, rfl, by decide⟩, ⟨offline_ready _, rfl, by decide⟩⟩

theorem test_witness_JoinLeavesOffline :
    (offline.readyFor .join ∧ offline.tc.state = .offline ∧ offline.fe.tx = none) ∧
      (member.readyFor .join ∧ member.tc.state ≠ .offline) :=
  ⟨⟨offline_ready _, rfl, rfl⟩, ⟨member_ready _, by decide⟩⟩

/-- A CLAIM of zone 63 with seven requests queued, and a LEAVE in MEMBER. -/
theorem test_witness_SubmitAppendsTheRequest :
    (let s := queued seven member
     s.readyFor (.submit 1 8 63 2) ∧ (ReqOp.claim 63 .shared).spelt 1 63 2 ∧ s.tc.state ≠ .offline ∧
      s.tc.state ≠ .leaving ∧ (∀ q ∈ s.ru.queue, q.op ≠ .leave) ∧ (∀ q ∈ s.ru.queue, q.tag ≠ 8) ∧
      s.ru.queue.length < 8 ∧ ¬ s.ru.zoneBusy 63) ∧
    (member.readyFor (.submit 5 8 0 0) ∧ ReqOp.leave.spelt 5 0 0 ∧ member.tc.state = .member) := by
  refine ⟨⟨ready_of_opened rfl rfl _, ?_, by decide, by decide, by decide, by decide, by decide, ?_⟩,
    member_ready _, ?_, rfl⟩
  · exact ⟨rfl, by decide, rfl⟩
  · rw [← Ru.busy_iff]; decide +kernel
  · rfl

/-- Each check that fails: the state, the kind, LEAVE outside MEMBER, zone 64, the tag, a full queue, a busy zone. -/
theorem test_witness_SubmitRefusedByTheFirstFailedCheck :
    offline.tc.state = .offline ∧
    (∃ q ∈ (queued [req 1 .leave] member).ru.queue, q.op = .leave) ∧
    ((4#8 : Byte) ≠ 1 ∧ (4#8 : Byte) ≠ 2 ∧ (4#8 : Byte) ≠ 3 ∧ (4#8 : Byte) ≠ 5) ∧
    (inState .joining member).tc.state ≠ .member ∧ 64 ≤ (64#8 : Byte).toNat ∧
    (∃ q ∈ (queued seven member).ru.queue, q.tag = 7) ∧
    ((∀ q ∈ (queued (seven ++ [req 8 .touch]) member).ru.queue, q.tag ≠ 9) ∧
      8 ≤ (queued (seven ++ [req 8 .touch]) member).ru.queue.length) ∧
    ((∀ q ∈ (queued [req 1 (.claim 63 .shared)] member).ru.queue, q.tag ≠ 9) ∧
      (queued [req 1 (.claim 63 .shared)] member).ru.zoneBusy 63) := by
  refine ⟨rfl, by decide, by decide, by decide, by decide, by decide, by decide, by decide, ?_⟩
  rw [← Ru.busy_iff]
  decide +kernel

theorem test_witness_WithdrawRemovesWhatIsNotOnTheLine :
    (let s := queued ([req 1 .touch] ++ req 2 .touch :: [req 3 .touch]) member
     s.readyFor (.withdraw 2) ∧ (req 2 .touch).onLine = false ∧ ∀ p ∈ [req 1 .touch], p.tag ≠ 2) ∧
    (let s := queued ([] ++ req 2 .touch 0 true :: []) member
     s.readyFor (.withdraw 2) ∧ (req 2 .touch 0 true).onLine = true) ∧
    (member.readyFor (.withdraw 2) ∧ ∀ q ∈ member.ru.queue, q.tag ≠ 2) :=
  ⟨⟨ready_of_opened rfl rfl _, rfl, by decide⟩, ⟨ready_of_opened rfl rfl _, rfl⟩, member_ready _, by decide⟩

theorem test_witness_FetchReportsTheOldestNotice :
    (member.readyFor .fetch ∧ member.hp.notices = []) ∧
      (offline.readyFor .fetch ∧ offline.hp.notices = readyNotice 0 .pinReset :: []) :=
  ⟨⟨member_ready _, rfl⟩, offline_ready _, rfl⟩

theorem test_witness_ReadZoneReportsRecordAndTicket :
    (member.readyFor (.readZone 64) ∧ 64 ≤ (64#8 : Byte).toNat) ∧
      (member.readyFor (.readZone 63) ∧ (63 : Zone).val = (63#8 : Byte).toNat) :=
  ⟨⟨member_ready _, by decide⟩, member_ready _, by decide⟩

theorem test_witness_RestartAndBadCommandTakes :
    member.readyFor .restart ∧ member.readyFor (.bad 0x5B) ∧
      (0x5B#8 : Byte) ∉ [0x10#8, 0x11#8, 0x20#8, 0x30#8, 0x31#8, 0x40#8, 0x41#8, 0x5A#8] :=
  ⟨member_ready _, member_ready _, by decide⟩

/-- The last bit of a STATUS reply of 15 bytes and of a FETCH reply of 9 is still to come. -/
theorem test_witness_ReplyEndsTakeEffect :
    let k (c : HostCmd) (n : Nat) : Taken :=
      { cmd := c, reply := List.replicate n 0, shifted := 8 * n - 1, reported := true, discards := 256 }
    let s (c : HostCmd) (n : Nat) : State :=
      { member with hp := { member.hp with txn := some { sampled := [], taken := some (k c n) } } }
    ((s .status 15).pins.resetLow = false ∧ (k .status 15).shifted < 8 * (k .status 15).reply.length) ∧
      ((s .fetch 9).pins.resetLow = false ∧ (k .fetch 9).shifted < 8 * (k .fetch 9).reply.length) := by decide

theorem test_witness_TransactionsOpenAndEnd :
    (State.reset.pins.resetLow = false ∧ State.reset.hp.txn = none) ∧
    (let s : State := { State.reset with pins := { resetLow := false, csnLow := true } }
     s.pins.resetLow = false ∧ s.hp.txn = none) ∧
    (member.pins.resetLow = false ∧ member.hp.txn = some { sampled := [], taken := none }) ∧
    (sampledBits [true] member).hp.txn = some { sampled := [true], taken := none } ∧
    ((takenAt .status [1] 0 false member).hp.txn.bind fun t => t.taken.map fun k => k.cmd) = some .status ∧
    ((takenAt .restart [1] 0 false member).hp.txn.bind fun t => t.taken.map fun k => k.cmd) = some .restart := by
  decide +kernel

/-- Before the take: no byte completed; the last bit of every command and of an unknown code; a byte that completes no
command. After it: a middle bit and the last bit of a reply; and the level on SDO in each case. -/
theorem test_witness_ClockEdges :
    (([] : List Bool).length + 1) % 8 ≠ 0 ∧
    (∀ c ∈ [HostCmd.status, .configure 255 3, .join, .submit 1 2 63 1, .withdraw 255, .fetch, .readZone 64, .restart,
        .bad 0xFF], c.named ∧ (bitsOf c.bytes).dropLast ++ [(bitsOf c.bytes).getLastD false] = bitsOf c.bytes) ∧
    ([false, false, true, true, false, false, false] ++ [false] = bitsOf [0x30#8] ∧
      ∀ c : HostCmd, c.named → c.bytes ≠ [0x30#8]) ∧
    (6 + 1 ≠ 8 * ([1#8] : List Byte).length ∧ 7 + 1 = 8 * ([1#8] : List Byte).length) ∧
    (HostCmd.join ≠ .status ∧ HostCmd.join ≠ .fetch) ∧
    (takenAt .fetch [1] 7 true member).pins.csnLow = true ∧
    bitsOf [1#8] = [false, false, false, false, false, false, false] ++ true :: [] := by
  refine ⟨by decide, ?_, ⟨by decide, ?_⟩, by decide, by decide, by decide, by decide⟩
  · intro c hc
    simp only [List.mem_cons, List.not_mem_nil, or_false] at hc
    rcases hc with h | h | h | h | h | h | h | h | h <;> subst h
    all_goals exact ⟨by first | exact True.intro | decide, by decide⟩
  · intro c hc h
    cases c <;> simp_all [HostCmd.bytes, HostCmd.named]

theorem test_witness_AttentionFollowsQueueAndFlag : member.pins.resetLow = false ∧ held.pins.resetLow = true :=
  ⟨rfl, rfl⟩

/-- A queue of 31 and of 32, a count of 254 and of 255, with no transaction, with one before its take and with one after it.
-/
theorem test_witness_PostJoinsOrIsCounted :
    let h (n c : Nat) (txn : Option Txn) : Hp :=
      { member.hp with notices := List.replicate n { kind := .lineClear }, overflowCount := c, txn := txn }
    (h 31 0 none).notices.length < 32 ∧ 32 ≤ (h 32 0 none).notices.length ∧ (h 32 254 none).overflowCount < 255 ∧
      ¬ (h 32 255 none).overflowCount < 255 ∧ (h 32 0 none).txn = none ∧
      member.hp.txn = some { sampled := [], taken := none } ∧
      ((takenAt .status [1] 0 false member).hp.txn.bind fun t => t.taken.map fun k => k.discards) = some 0 := by
  decide +kernel

/-- A state that meets every law before a step, with a command in front. -/
theorem test_witness_invariants :
    let s : State := { member with pending := [.frameTake], ru := { member.ru with queue := seven } }
    s.noticeLaw ∧ s.poolLaw ∧ s.tableLaw ∧ s.outOfStepLaw ∧ s.requestLaw ∧ s.driveLaw ∧ s.copyLaw ∧
      ∃ t, step s = .next t := by
  refine ⟨by decide, by decide +kernel, ?_, ?_, by decide, trivial, by decide, ⟨_, rfl⟩⟩
  · rw [State.tableLaw_iff]
    decide +kernel
  · intro h
    cases h

/-- A state out of step meets its law. -/
theorem test_witness_outOfStep : offline.tc.state.inStep = false ∧ offline.ztu.zone 63 = ZoneRec.reset := by
  decide +kernel

/-- The line is driven under the law, each symbol for its whole length: an OPEN, the bits, a HALT and a slot. The last
fortieth of the slot's drive is under it too. -/
theorem test_witness_drive :
    let a := attempt .hail { payload := .hail, repNo := 0, orig := 2, turn := 0 }
    let s (d : Symbol) (left : Nat) (faulted : Bool) (l : LineState) : State :=
      { onLine l member with
        lif := { Lif.reset true with line := l, drive := some { symbol := d, left := left } }
        fe := { member.fe with tx := some { a with faulted := faulted }, slots := [.empty, .empty] } }
    (s .openSymbol 200 false (.busy .pulse)).driveLaw ∧ (s (.bit true) 80 false (.busy .frame)).driveLaw ∧
      (s (.bit false) 40 false (.busy .frame)).driveLaw ∧ (s .haltSymbol 480 true .unsynced).driveLaw ∧
      (s .slot 40 false (.busy .roll)).driveLaw ∧
      ({ s .slot 1 false (.busy .roll) with
          lif := { (s .slot 1 false (.busy .roll)).lif with slotAt := -20, sinceReport := 59 } } : State).driveLaw := by
  refine ⟨⟨by decide, by decide, rfl⟩, ⟨by decide, by decide, rfl⟩, ⟨by decide, by decide, rfl⟩, ⟨by decide, by decide⟩,
    ⟨by decide, rfl, by decide, by decide, by decide⟩, by decide, rfl, by decide, by decide, by decide⟩

/-- A frame in transmission, with a bit fault found or not, on a line in some state. -/
def sendingOn (l : LineState) (faulted : Bool) : State :=
  let s := onLine l member
  { s with fe := { s.fe with tx := some { attempt .request (orderFrom 2 .touch 417) with faulted := faulted } } }

/-- A frame of which nothing has been received stands in reception. -/
def beginning (mark : Bool) (s : State) : State := { s with fe := { s.fe with rx := some (Reception.start mark) } }

/-- The attempt of `driving`: a TOUCH of station 2 of which `n` bits have been received and the next is asked for. -/
def drivingAttempt (n : Nat) : Attempt := { attempt .request (orderFrom 2 .touch 417) with driven := n + 1 }

/-- An own TOUCH of which `n` bits have been received, on a line recessive for 1Q; of the drive of `x` there is `left`. -/
def driving (x : Symbol) (n left : Nat) : State :=
  { member with
    lif := { member.lif with
      line := if x = .openSymbol then .busy .pulse else .busy .frame
      lasted := 40
      drive := some { symbol := x, left := left } }
    fe := { member.fe with
      tx := some (drivingAttempt n)
      rx :=
        if x = .openSymbol then none
        else some { bits := (drivingAttempt n).bits.take n, crc := 0xFFFF#16, mark := true } } }

/-- A pulse that begins before the drive ends starts within it. -/
theorem driving_starts {x : Symbol} {n left t : Nat} (h : t < left) :
    (driving x n left).startsWithin (drivingAttempt n) x t := by
  refine ⟨fun r hr => ?_, fun ho => by have := ho.2 left rfl; omega⟩
  simp only [driving] at hr
  split at hr
  · cases hr
  · cases hr
    simp only [List.length_take, drivingAttempt]
    omega

/-- It does not run out by then. -/
theorem driving_goes_on {x : Symbol} {n left t : Nat} (h : t < left) :
    ¬ (driving x n left).runsOut (drivingAttempt n) x t := fun hr => (driving_starts h).2 hr.2.2

/-- Each line state; OPEN lengths of 160 and 240 with no own frame, of 180 and 220 under an own OPEN, and of 160 under one
whose bit fault has been found. -/
theorem test_witness_FramesOpen :
    (let s := driving .openSymbol 0 1
     let a := drivingAttempt 0
     s.fe.tx = some a ∧ a.faulted = false ∧ s.lif.line = .busy .pulse ∧ s.startsWithin a .openSymbol 0 ∧
       s.compares a .openSymbol ∧ ¬ s.runsOut a .openSymbol 0) ∧
    (member.pins.resetLow = false ∧ member.lif.line = .idle ∧ member.fe.rx = none ∧ member.fe.tx = none) ∧
    (∀ p ∈ [Phase.roll, .rest, .pulse, .haltRest],
      (onLine (.busy p) member).lif.line = .busy p ∧ (onLine (.busy p) member).fe.tx = none) ∧
    ((onLine .unsynced member).lif.line = .unsynced ∧ (onLine .stuck member).lif.line = .stuck) ∧
    (Stretch.seen [160] = some 160 ∧ Stretch.seen [240] = some 240 ∧ Stretch.seen [180] = some 180 ∧
      Stretch.seen [220] = some 220) ∧
    ((sendingOn (.busy .pulse) true).fe.tx.map fun a => (a.faulted, a.missed)) = some (true, false) ∧
    ((after (.bitFault .absent) (driving .openSymbol 0 1)).fe.tx.map fun a => (a.faulted, a.missed)) =
      some (true, true) := by
  exact ⟨⟨rfl, rfl, rfl, driving_starts (by decide), ⟨rfl, rfl⟩, driving_goes_on (by decide)⟩, by decide +kernel⟩

/-- A bit at the edges of its windows, received and sent; the own bit due on a line recessive for 1Q, and within another
sender's pulse; and one asked for already. -/
theorem test_witness_BitsAreReceivedAndDriven :
    (driving (.bit true) 0 21).startsWithin (drivingAttempt 0) (.bit true) (60 - 40) ∧
    (∀ n ∈ [20, 21],
      let s := driving (.bit true) 0 n
      let a := drivingAttempt 0
      s.fe.tx = some a ∧ a.faulted = false ∧ s.lif.lasted = 40 ∧ s.lif.low = false ∧ s.lif.line = .busy .frame ∧
        (s.fe.rx.map fun r => decide (r.bits.length < a.driven)) = some true ∧ a.bits[0]? = some true ∧
        s.lif.drive = some { symbol := .bit true, left := n }) ∧
    let s := beginning true (sendingOn (.busy .frame) false)
    let a := attempt .request (orderFrom 2 .touch 417)
    (s.pins.resetLow = false ∧ s.lif.line = .busy .frame ∧ s.fe.rx = some (Reception.start true) ∧ s.fe.tx = some a ∧
      a.faulted = false ∧ a.bits[(Reception.start true).bits.length]? = some true ∧
      a.driven ≤ (Reception.start true).bits.length ∧ (Reception.start true).bits.length < { a with driven := 1 }.driven) ∧
    (∀ n ∈ [20, 56, 60, 64, 100, 104], Stretch.seen [n] = some n) ∧
    (20 ≤ 20 ∧ 60 ≤ 60 ∧ 56 ≤ 56 ∧ 64 ≤ 64 ∧ 104 ≤ 104 ∧ 100 ≤ 100) ∧
    (receiving (orderFrom 0 .touch 417) member).fe.tx = none ∧
    (s.lif.low = false ∧ s.lif.lasted ≤ 40) ∧
    (let l : Lif := { s.lif with low := true, lasted := 39 }
     l.low = true ∧ l.lasted < 40) := by
  exact ⟨driving_starts (by decide), by decide +kernel, by decide +kernel⟩

/-- A CLOSE with no bit received, in MEMBER and in FOUNDING, own and not; with an own frame that has bits left; and with one
whose bit fault has been found. -/
theorem test_witness_FrameCloseDiscards :
    acceptFrame (Reception.start true).bits (Reception.start true).crc = none ∧
    (let s := beginning true (onLine (.busy .frame) member)
     s.pins.resetLow = false ∧ s.lif.line = .busy .frame ∧ s.lif.low = false ∧ s.fe.tx = none ∧ s.tc.state ≠ .founding) ∧
    ((inState .founding member).tc.state = .founding ∧ (Reception.start false).mark = false) ∧
    (Reception.start true).mark = true ∧
    (∀ a, (sendingOn (.busy .frame) true).fe.tx = some a → a.faulted = true) ∧
    (let a := attempt .request (orderFrom 2 .touch 417)
     (sendingOn (.busy .frame) false).fe.tx = some a ∧ a.faulted = false ∧
       a.bits[(Reception.start true).bits.length]? = some true ∧ a.driven ≤ (Reception.start true).bits.length) ∧
    (∀ n ∈ [100, 101], let s := driving (.bit true) 0 n
      s.lif.drive = some { symbol := .bit true, left := n } ∧ 140 - s.lif.lasted = 100 ∧
        (s.fe.tx.map fun a => decide ((Reception.start true).bits.length < a.driven)) = some true) := by
  refine ⟨by decide, by decide, by decide, by decide, ?_, by decide +kernel, by decide +kernel⟩
  intro a h
  cases h
  rfl

/-- Another station's frame, received whole, is accepted at its CLOSE. -/
theorem receives_of {s : State} {f : Frame} (h1 : s.pins.resetLow = false)
    (h2 : s.lif.line = .busy .frame ∧ s.lif.low = false) (h3 : s.fe.tx = none) (h4 : s.fe.rx = some (received f false))
    (h5 : (received f false).mark = false ∧ acceptFrame (received f false).bits (received f false).crc = some f) :
    s.receives f := by
  unfold State.receives
  rw [h4]
  exact ⟨h1, h2.1, h2.2, h3, h5⟩

/-- The own frame, received back whole, is accepted at its CLOSE. -/
theorem receivesOwn_of {s : State} {src : Source} {f : Frame} (h1 : s.pins.resetLow = false)
    (h2 : s.lif.line = .busy .frame ∧ s.lif.low = false) (h3 : s.fe.tx = some (attempt src f))
    (h4 : s.fe.rx = some (received f true))
    (h5 : (received f true).mark = true ∧ f.bits.length ≤ (received f true).bits.length ∧
      acceptFrame (received f true).bits (received f true).crc = some f) :
    s.receivesOwn (attempt src f) f := by
  unfold State.receivesOwn
  rw [h4]
  exact ⟨h1, h2.1, h2.2, h3, rfl, rfl, h5⟩

/-- The frames of the witnesses below. -/
theorem accepted_claim :
    (received (orderFrom 0 (.claim 9 .shared) 417) false).mark = false ∧
      acceptFrame (received (orderFrom 0 (.claim 9 .shared) 417) false).bits
        (received (orderFrom 0 (.claim 9 .shared) 417) false).crc = some (orderFrom 0 (.claim 9 .shared) 417) := by
  decide +kernel

theorem accepted_touch : ∀ f ∈ [orderFrom 0 .touch 418, orderFrom 0 .touch 33184, orderFrom 0 .touch 33185,
      orderFrom 0 .touch 415, orderFrom 0 .touch 416, orderFrom 0 .touch 300, orderFrom 0 .touch 301,
      orderFrom 0 .touch 302, orderFrom 0 .touch 33068, orderFrom 0 .touch 33069, orderFrom 0 .touch 299],
    (received f false).mark = false ∧ acceptFrame (received f false).bits (received f false).crc = some f := by
  decide +kernel

theorem test_witness_OrderFrameIsApplied :
    let f := orderFrom 0 (.claim 9 .shared) 417
    let s := receiving f member
    s.receives f ∧ f.payload = .order (.claim 9 .shared) ∧ s.inStep ∧ s.noClosure ∧ f.turn = s.tc.turn ∧
      f.orig ≠ s.self ∧ ∀ g ∈ (s.ztu.apply s.tc.roster f.orig s.self (.claim 9 .shared)).grants, g.entry.station ≠ s.self :=
  ⟨receives_of rfl ⟨rfl, rfl⟩ rfl rfl accepted_claim, rfl, .inr (.inl rfl), trivial, rfl, by decide, by decide +kernel⟩

/-- Station 2 waits for the zones 7 and 63, held by station 9, with the tickets of the tags 10 and 11. -/
def waiting : State :=
  { member with
    ztu := tableOf [(7, zrec .exclusive 0x0200#16 [wait 2 .exclusive]), (63, zrec .exclusive 0x0200#16 [wait 2 .shared])] 94
    ru := (member.ru.setTicket 7 (.waiting 10 .exclusive)).setTicket 63 (.waiting 11 .shared) }

/-- Tickets that wait in every one of some zones. -/
theorem waitsIn_of {r : Ru} {zones : List Zone} (h : zones.Nodup) (hw : zones.all (fun z => (r.ticket z).isWaiting)) :
    r.waitsIn zones := by
  refine ⟨h, fun z hz => ?_⟩
  have := List.all_eq_true.1 hw z hz
  cases ht : r.ticket z with
  | waiting tag m => exact ⟨tag, m, rfl⟩
  | _ => rw [ht] at this; cases this

/-- Station 9 releases zone 7, leaves, and joins again, and station 2 is granted zone 7, or both its zones. -/
theorem test_witness_OrderFrameIsApplied_grant :
    let zones (op : OrderOp) : List Zone := (waiting.ztu.apply waiting.tc.roster 9 waiting.self op).grantedTo waiting.self
    (∀ op ∈ [OrderOp.release 7, .leave, .join],
      (receiving (orderFrom 9 op 417) waiting).receives (orderFrom 9 op 417) ∧ waiting.ru.waitsIn (zones op)) ∧
    (zones (.release 7) = [7] ∧ zones .leave = [7, 63] ∧ zones .join = [7, 63]) ∧
    (waiting.tc.state = .member ∧ waiting.noClosure ∧ (orderFrom 9 .leave 417).turn = waiting.tc.turn ∧
      (orderFrom 9 .leave 417).orig ≠ waiting.self) := by
  refine ⟨?_, by decide +kernel, rfl, trivial, rfl, by decide⟩
  have h : ∀ op ∈ [OrderOp.release 7, .leave, .join],
      ((received (orderFrom 9 op 417) false).mark = false ∧
        acceptFrame (received (orderFrom 9 op 417) false).bits (received (orderFrom 9 op 417) false).crc =
          some (orderFrom 9 op 417)) ∧
      (let zones := (waiting.ztu.apply waiting.tc.roster 9 waiting.self op).grantedTo waiting.self
       zones.Nodup ∧ zones.all (fun z => (waiting.ru.ticket z).isWaiting) = true) := by decide +kernel
  exact fun op hop => ⟨receives_of rfl ⟨rfl, rfl⟩ rfl rfl (h op hop).1, waitsIn_of (h op hop).2.1 (h op hop).2.2⟩

/-- A JOIN, a LEAVE and a TOUCH with the own number that the station did not send. -/
theorem test_witness_OrderFrameIsApplied_own :
    (∀ op ∈ [OrderOp.join, .leave, .touch], (receiving (orderFrom 2 op 417) member).receives (orderFrom 2 op 417)) ∧
    (member.inStep ∧ member.noClosure ∧ member.tc.state = .member ∧ (orderFrom 2 .join 417).turn = member.tc.turn ∧
      (orderFrom 2 .join 417).orig = member.self) ∧
    ∀ g ∈ (member.ztu.apply member.tc.roster member.self member.self .touch).grants, g.entry.station ≠ member.self := by
  refine ⟨?_, ⟨.inr (.inl rfl), trivial, rfl, rfl, rfl⟩, by decide +kernel⟩
  have h : ∀ op ∈ [OrderOp.join, .leave, .touch], (received (orderFrom 2 op 417) false).mark = false ∧
      acceptFrame (received (orderFrom 2 op 417) false).bits (received (orderFrom 2 op 417) false).crc =
        some (orderFrom 2 op 417) := by decide +kernel
  exact fun op hop => receives_of rfl ⟨rfl, rfl⟩ rfl rfl (h op hop)

/-- The own order frames, received back whole. -/
theorem accepted_own : ∀ f ∈ [orderFrom 2 (.claim 9 .shared) 417, orderFrom 2 (.release 9) 417, orderFrom 2 .touch 417,
      orderFrom 2 .leave 417, orderFrom 2 .join 417, orderFrom 2 .join 0],
    (received f true).mark = true ∧ f.bits.length ≤ (received f true).bits.length ∧
      acceptFrame (received f true).bits (received f true).crc = some f := by
  decide +kernel

/-- The own request on the line and its frame received back whole: a CLAIM of zone 9, a RELEASE of a zone held, a TOUCH and a
LEAVE; the internal TOUCH; and the own JOIN in FOUNDING at turn 0 and in JOINING. -/
theorem test_witness_OwnOrdersTakeEffect :
    let grantsNone (s : State) (op : OrderOp) : Prop :=
      ∀ g ∈ (s.ztu.apply s.tc.roster s.self s.self op).grants, g.entry.station ≠ s.self
    let s (op : ReqOp) := queued [req 10 op 0 true] (receivingOwn .request (orderFrom 2 op.order 417)
      { member with ztu := tableOf [(9, zrec .exclusive 0x0004#16 [])] 96 })
    (∀ op ∈ [ReqOp.claim 9 .shared, .release 9, .touch, .leave],
      (s op).receivesOwn (attempt .request (orderFrom 2 op.order 417)) (orderFrom 2 op.order 417) ∧ (s op).noClosure ∧
        (orderFrom 2 op.order 417).orig = (s op).self ∧ (orderFrom 2 op.order 417).turn = (s op).tc.turn ∧
        grantsNone (s op) op.order ∧ (s op).tc.state = .member ∧ (s op).ru.queue = req 10 op 0 true :: [] ∧
        ∀ z : Zone, ((s op).ztu.zone z).apart) ∧
    (let t := receivingOwn .touch (orderFrom 2 .touch 417) member
     t.receivesOwn (attempt .touch (orderFrom 2 .touch 417)) (orderFrom 2 .touch 417) ∧ grantsNone t .touch) ∧
    (let t := receivingOwn .join (orderFrom 2 .join 417) (inState .joining member)
     t.receivesOwn (attempt .join (orderFrom 2 .join 417)) (orderFrom 2 .join 417) ∧ grantsNone t .join ∧
       t.tc.state = .joining) ∧
    (let t := receivingOwn .join (orderFrom 2 .join 0)
       { member with tc := { Tc.reset with state := .founding }, ztu := Ztu.reset }
     t.receivesOwn (attempt .join (orderFrom 2 .join 0)) (orderFrom 2 .join 0) ∧ grantsNone t .join ∧
       t.tc.state = .founding ∧ t.tc.turn = 0) := by
  refine ⟨?_, ⟨receivesOwn_of rfl ⟨rfl, rfl⟩ rfl rfl (accepted_own _ (by simp)), by decide +kernel⟩,
    ⟨receivesOwn_of rfl ⟨rfl, rfl⟩ rfl rfl (accepted_own _ (by simp)), by decide +kernel, rfl⟩,
    receivesOwn_of rfl ⟨rfl, rfl⟩ rfl rfl (accepted_own _ (by simp)), by decide +kernel, rfl, rfl⟩
  intro op hop
  have hg : ∀ op ∈ [ReqOp.claim 9 .shared, .release 9, .touch, .leave],
      ∀ g ∈ ((tableOf [(9, zrec .exclusive 0x0004#16 [])] 96).apply member.tc.roster 2 2 op.order).grants,
        g.entry.station ≠ 2 := by decide +kernel
  have ha : ∀ z : Zone, ((tableOf [(9, zrec .exclusive 0x0004#16 [])] 96).zone z).apart := by decide +kernel
  refine ⟨receivesOwn_of rfl ⟨rfl, rfl⟩ rfl rfl (accepted_own _ ?_), trivial, rfl, rfl, hg op hop, rfl, rfl, ha⟩
  simp only [List.mem_cons, List.not_mem_nil, or_false] at hop
  rcases hop with rfl | rfl | rfl | rfl <;> simp [ReqOp.order]

/-- One turn ahead and 32767 turns ahead of 417. -/
theorem test_witness_GapIsALagEvent :
    let s (turn : Turn) := receiving (orderFrom 0 .touch turn) member
    (s 418).receives (orderFrom 0 .touch 418) ∧ (s 33184).receives (orderFrom 0 .touch 33184) ∧ (s 418).inStep ∧
      (s 418).noClosure ∧ ((418#16 : Turn) - member.tc.turn).toNat = 1 ∧
      ((33184#16 : Turn) - member.tc.turn).toNat = 32767 :=
  ⟨receives_of rfl ⟨rfl, rfl⟩ rfl rfl (accepted_touch _ (by simp)), receives_of rfl ⟨rfl, rfl⟩ rfl rfl (accepted_touch _ (by simp)),
    .inr (.inl rfl), trivial, by decide, by decide⟩

/-- 32768 and 65534 turns away, one turn behind with another check, a repeat of the last-applied frame with no closure
pending, and one of the frame under closure. -/
theorem test_witness_StaleIsIgnoredAndRepeatsRecognised :
    let s (turn : Turn) := receiving (orderFrom 0 .touch turn) member
    let f := orderFrom 0 .touch 416
    let c : ClosureRecord := { record with orig := 0, turn := 416, check := f.check }
    let r : State :=
      { closing c (s 416) with tc := { (closing c (s 416)).tc with lastApplied := some { orig := 0, turn := 416, check := f.check } } }
    ((s 33185).receives (orderFrom 0 .touch 33185) ∧ ((33185#16 : Turn) - member.tc.turn).toNat = 32768) ∧
    ((s 415).receives (orderFrom 0 .touch 415) ∧ ((415#16 : Turn) - member.tc.turn).toNat = 65534) ∧
    ((s 416).receives f ∧ (f.turn - member.tc.turn).toNat = 65535 ∧
      ¬ ∃ l, member.tc.lastApplied = some l ∧ l.orig = f.orig ∧ l.check = f.check) ∧
    (let p := closing { c with closed := true } r
     p.receives f ∧ p.inStep ∧ p.noClosure ∧ ∃ l, p.tc.lastApplied = some l ∧ l.orig = f.orig ∧ l.check = f.check) ∧
    (r.receives f ∧ r.inStep ∧ r.tc.closure = some c ∧ c.closed = false ∧ c.orig = f.orig ∧ c.turn = f.turn ∧
      c.check = f.check ∧ r.tc.lastApplied = some { orig := f.orig, turn := f.turn, check := f.check }) := by
  refine ⟨⟨receives_of rfl ⟨rfl, rfl⟩ rfl rfl (accepted_touch _ (by simp)), by decide⟩,
    ⟨receives_of rfl ⟨rfl, rfl⟩ rfl rfl (accepted_touch _ (by simp)), by decide⟩,
    ⟨receives_of rfl ⟨rfl, rfl⟩ rfl rfl (accepted_touch _ (by simp)), by decide, ?_⟩,
    ⟨receives_of rfl ⟨rfl, rfl⟩ rfl rfl (accepted_touch _ (by simp)), .inr (.inl rfl), rfl,
      { orig := 0, turn := 416, check := (orderFrom 0 .touch 416).check }, by dsimp only [closing], rfl, by dsimp only⟩,
    receives_of rfl ⟨rfl, rfl⟩ rfl rfl (accepted_touch _ (by simp)), .inr (.inl rfl), by dsimp only [closing], rfl, rfl, rfl,
    by dsimp only, by dsimp only [orderFrom]⟩
  rintro ⟨l, hl, -, h⟩
  cases hl
  exact absurd h (by decide +kernel)

/-- The own REPEAT number 3 of the TOUCH at turn 416. -/
def ownRepeat : Frame := { orderFrom 2 .touch 416 with repNo := 3 }

theorem accepted_ownRepeat : (received ownRepeat true).mark = true ∧
    ownRepeat.bits.length ≤ (received ownRepeat true).bits.length ∧
    acceptFrame (received ownRepeat true).bits (received ownRepeat true).crc = some ownRepeat := by decide +kernel

/-- It is received back whole in MEMBER. -/
theorem test_witness_StaleIsIgnoredAndRepeatsRecognised_own :
    let f := ownRepeat
    let c : ClosureRecord := { record with turn := 416, check := f.check }
    let s := receivingOwn .rept f
      { member with
        tc := { member.tc with closure := some c, lastApplied := some { orig := f.orig, turn := f.turn, check := f.check } } }
    s.receivesOwn (attempt .rept f) f ∧ f.payload = .order .touch ∧ s.inStep ∧ f.turn = s.tc.turn - 1 ∧
      s.tc.closure = some c ∧ c.closed = false ∧ c.orig = f.orig ∧ c.turn = f.turn ∧ c.check = f.check ∧
      s.tc.lastApplied = some { orig := f.orig, turn := f.turn, check := f.check } :=
  ⟨receivesOwn_of rfl ⟨rfl, rfl⟩ rfl rfl accepted_ownRepeat, rfl, .inr (.inl rfl), by decide, rfl, rfl, rfl, rfl, by dsimp only,
    by dsimp only [receivingOwn]⟩

/-- A HAIL and a COPY-HEAD of station 0. -/
def hailFrom0 : Frame := { payload := .hail, repNo := 0, orig := 0, turn := 0 }

/-- A COPY-HEAD of station 0 that names station 2, with two parts and two zones at T = 300. -/
def headBytes : List Byte :=
  4#8 :: (wordBytes 300#16 ++ wordBytes 0x0021#16 ++ wordBytes 0x0004#16 ++ [BitVec.ofNat 8 2, BitVec.ofNat 8 2])

def headFrom0 : Frame := { payload := .copyHead headBytes, repNo := 0, orig := 0, turn := 300 }

/-- A COPY-HEAD with those counts, and a COPY-PART with that index and those bytes. -/
def headOf (parts occupied : Nat) : Frame :=
  { headFrom0 with
    payload := .copyHead (4#8 :: (wordBytes 300#16 ++ wordBytes 0x0021#16 ++ wordBytes 0x0004#16 ++
      [BitVec.ofNat 8 parts, BitVec.ofNat 8 occupied])) }

def partOf (index : Byte) (bytes : List Byte) : Frame :=
  { headFrom0 with payload := .copyPart (4#8 :: index :: bytes) }

/-- Its record. -/
def partRec : CopyRec := copyRecOf 9 (zrec .shared 0x0021#16 [])

def partFrom0 : Frame := partOf 0 ([partRec].flatMap CopyRec.bytes)

theorem accepted_copy : ∀ f ∈ [hailFrom0, headFrom0, partFrom0, headOf 0 0, headOf 65 64, headOf 64 64, headOf 2 1,
      partOf 1 ([partRec].flatMap CopyRec.bytes), partOf 2 ([partRec].flatMap CopyRec.bytes), partOf 0 [9, 0x81, 0, 0x21]],
    (received f false).mark = false ∧ acceptFrame (received f false).bits (received f false).crc = some f := by
  decide +kernel

/-- A HAIL and a copy frame in MEMBER, and in states that are none; an order-class frame and a copy frame in FOUNDING; an
order-class frame in OFFLINE, in HAILING and in COPYING. -/
theorem test_witness_FramesAreHandedByClassAndState :
    let s (f : Frame) := receiving f member
    ((s hailFrom0).receives hailFrom0 ∧ (s hailFrom0).noClosure ∧ hailFrom0.payload = .hail ∧ member.tc.state = .member) ∧
    (inState .joining member).tc.state ≠ .member ∧
    ((s headFrom0).receives headFrom0 ∧ headFrom0.payload = .copyHead headBytes ∧ member.tc.state ≠ .founding ∧
      member.tc.state ≠ .copying) ∧
    ∀ st ∈ [StationState.founding, .offline, .hailing, .copying],
      let t (f : Frame) := receiving f (inState st member)
      (t headFrom0).receives headFrom0 ∧ (t (orderFrom 0 .touch 418)).receives (orderFrom 0 .touch 418) ∧
        (t headFrom0).noClosure ∧ (t headFrom0).tc.state = st ∧ (t headFrom0).cu.logging = false :=
  ⟨⟨receives_of rfl ⟨rfl, rfl⟩ rfl rfl (accepted_copy _ (by simp)), trivial, rfl, rfl⟩, by decide,
    ⟨receives_of rfl ⟨rfl, rfl⟩ rfl rfl (accepted_copy _ (by simp)), rfl, by decide, by decide⟩,
    fun _ _ => ⟨receives_of rfl ⟨rfl, rfl⟩ rfl rfl (accepted_copy _ (by simp)),
      receives_of rfl ⟨rfl, rfl⟩ rfl rfl (accepted_touch _ (by simp)), trivial, rfl, rfl⟩⟩

/-- A HAIL and a COPY-HEAD of station 2. -/
def ownHail : Frame := { hailFrom0 with orig := 2 }

def ownHead : Frame := { headFrom0 with orig := 2 }

theorem accepted_ownCopy : ∀ f ∈ [ownHail, ownHead], (received f true).mark = true ∧
    f.bits.length ≤ (received f true).bits.length ∧
    acceptFrame (received f true).bits (received f true).crc = some f := by decide +kernel

/-- The own HAIL in HAILING and the own COPY-HEAD in MEMBER, received back whole. -/
theorem test_witness_FramesAreHandedByClassAndState_own :
    (let s := receivingOwn .hail ownHail { inState .hailing member with fe := { member.fe with hail := some 0 } }
     s.receivesOwn (attempt .hail ownHail) ownHail ∧ s.noClosure ∧ s.tc.state = .hailing ∧ ownHail.payload = .hail) ∧
    (let s := receivingOwn .copy ownHead { member with fe := { member.fe with copy := some 7 } }
     s.receivesOwn (attempt .copy ownHead) ownHead ∧ s.noClosure ∧ s.tc.state = .member ∧
       ownHead.payload = .copyHead headBytes) :=
  ⟨⟨receivesOwn_of rfl ⟨rfl, rfl⟩ rfl rfl (accepted_ownCopy _ (by simp)), trivial, rfl, rfl⟩,
    receivesOwn_of rfl ⟨rfl, rfl⟩ rfl rfl (accepted_ownCopy _ (by simp)), trivial, rfl, rfl⟩

/-- A log entry of a TOUCH of station 0. -/
def entry (turn : Turn) (closed : Bool) : LogEntry :=
  { turn := turn, orig := 0, op := .touch, check := (orderFrom 0 .touch turn).check, repSeen := 0, lastRoll := none,
    closed := closed }

/-- Station 2 in COPYING with station 0 as its source. -/
def copying : State :=
  { inState .copying member with
    tc := { Tc.reset with state := .copying }
    ztu := Ztu.reset
    cu := { Cu.reset with
      awaited := some 0, logging := true, copyTimer := some 7, log := [entry 299 true, entry 300 false] } }

/-- The stream record after that head. -/
def stream : ReqStream := { number := 4, snapTurn := 300, roster := 0x0021#16, partCount := 3, occupied := 3, nextPart := 1 }

/-- The Copy Unit of a state replaced. -/
def withCu (cu : Cu) (s : State) : State := { s with cu := cu }

/-- What the pruning of R88 leaves of a log at a snapshot turn of 300. -/
def kept (log : List LogEntry) : List LogEntry :=
  log.filter fun e => !(1 ≤ (300#16 - e.turn).toNat && (300#16 - e.turn).toNat ≤ 32767)

/-- Heads: from another source, of the recorded stream, of another stream than the one recorded, with counts that disagree,
with a log that begins at the snapshot and with one that begins past it. Parts: with no stream, of another stream, earlier,
ahead, whole and cut short. -/
theorem test_witness_RequesterTakesTheCopy :
    (∀ f ∈ [headFrom0, headOf 65 64, headOf 2 1, headOf 64 64, partFrom0, partOf 2 ([partRec].flatMap CopyRec.bytes)],
      (receiving f copying).receives f ∧ (receiving f copying).noClosure ∧ (receiving f copying).tc.state = .copying) ∧
    (copying.cu.awaited = some headFrom0.orig ∧ StationSet.has 0x0004#16 copying.self = true ∧
      { copying.cu with awaited := some 1 }.awaited ≠ some headFrom0.orig) ∧
    (copying.cu.stream = none ∧ ({ copying.cu with stream := some stream } : Cu).stream = some stream ∧ stream.number = 4 ∧
      (∀ st, some { stream with number := 3 } = some st → st.number ≠ 4)) ∧
    (64 < 65 ∧ 1 < 2 ∧ 1 ≤ 64 ∧ 64 ≤ 64) ∧
    (∀ e, (kept copying.cu.log).head? = some e → e.turn = 300) ∧
    (∀ e, (kept [entry 301 false]).head? = some e → e.turn ≠ 300) ∧
    ((0#8 : Byte).toNat < stream.nextPart ∧ stream.nextPart = (1#8 : Byte).toNat ∧ stream.nextPart < (2#8 : Byte).toNat ∧
      stream.nextPart + 1 ≠ stream.partCount) ∧
    (readRecs [9, 0x81, 0, 0x21] = none ∧ (∀ r ∈ [partRec], r.queue.length ≤ 31) ∧
      ({ copying.cu with build := some [] } : Cu).build = some []) := by
  refine ⟨?_, ⟨rfl, by decide, by decide⟩, ⟨rfl, rfl, rfl, fun _ h => by cases h; decide⟩, by decide, ?_, ?_, by decide, by decide,
    by decide, rfl⟩
  · intro f hf
    refine ⟨receives_of rfl ⟨rfl, rfl⟩ rfl rfl (accepted_copy _ ?_), trivial, rfl⟩
    simp only [List.mem_cons, List.not_mem_nil, or_false] at hf ⊢
    rcases hf with rfl | rfl | rfl | rfl | rfl | rfl <;> simp [partFrom0]
  · intro e h
    have : (kept copying.cu.log).head? = some (entry 300 false) := by decide +kernel
    rw [this] at h
    cases h
    rfl
  · intro e h
    have : (kept [entry 301 false]).head? = some (entry 301 false) := by decide +kernel
    rw [this] at h
    cases h
    decide

/-- The log at a requester: empty, with no stream, at the snapshot turn, past it and before it; a repeat of the newest
entry; the next turn with 22 and with 23 entries before the newest; 1 and 32767 turns past it; the turn of a newest entry
that is closed; and 32768 and 65534 turns away. -/
theorem test_witness_RequesterTakesTheCopy_log :
    (∀ f ∈ [orderFrom 0 .touch 300, orderFrom 0 .touch 301, orderFrom 0 .touch 302, orderFrom 0 .touch 33068,
        orderFrom 0 .touch 33069, orderFrom 0 .touch 299],
      (receiving f copying).receives f ∧ copying.cu.logging = true) ∧
    ((301#16 - stream.snapTurn).toNat = 1 ∧ (33068#16 - (301#16 : Turn)).toNat = 32767 ∧
      (299#16 - stream.snapTurn).toNat = 65535 ∧ (33068#16 - stream.snapTurn).toNat = 32768) ∧
    ((orderFrom 0 .touch 300).turn = (entry 300 true).turn ∧ (entry 300 true).closed = true ∧
      (33069#16 - (300#16 + 1 : Turn)).toNat = 32768 ∧ (299#16 - (300#16 + 1 : Turn)).toNat = 65534) ∧
    (withCu { copying.cu with log := [] } copying).cu.log = [] ∧ stream.snapTurn = 300 ∧
    (copying.cu.log = [entry 299 true] ++ [entry 300 false] ∧ (entry 300 false).closed = false ∧
      (entry 300 false).turn = (orderFrom 0 .touch 300).turn ∧ (entry 300 false).check = (orderFrom 0 .touch 300).check) ∧
    ((orderFrom 0 .touch 301).turn = (entry 300 false).turn + 1 ∧
      (List.replicate 22 (entry 299 true)).length < 23 ∧ 23 ≤ (List.replicate 23 (entry 299 true)).length) ∧
    ((302#16 - (300#16 + 1)).toNat = 1 ∧ (33068#16 - (300#16 + 1)).toNat = 32767) := by
  refine ⟨?_, by decide, ⟨rfl, rfl, by decide, by decide⟩, rfl, rfl, ⟨rfl, rfl, rfl, by dsimp only [entry]⟩,
    by decide +kernel, by decide⟩
  intro f hf
  refine ⟨receives_of rfl ⟨rfl, rfl⟩ rfl rfl (accepted_touch _ ?_), rfl⟩
  simp only [List.mem_cons, List.not_mem_nil, or_false] at hf ⊢
  simp only [hf, or_true]

/-- The own slot next and one ahead, at its start, before it and one fortieth after it; slot 0's early edge and the last
slot; each reading at the bounds of its windows, with a start that is spoilt and one that is not. A row of the second list
is where the pulse begins, how long it is, and what comes after it up to the report. -/
theorem test_witness_RollWindow :
    let s (n : Nat) : State :=
      { onLine (.busy .roll) member with
        fe := { member.fe with slotRequest := true, slots := List.replicate n .empty } }
    let due (a m : Nat) : Int := max 80 ((a : Int) + min m 56)
    ((s 2).lif.line = .busy .roll ∧ (s 2).fe.slotRequest = true ∧ (s 2).lif.drive = none ∧ (s 2).pending = [] ∧
      (s 2).fe.slots.length = (s 2).self.val) ∧ (s 1).fe.slots.length + 1 = (s 1).self.val ∧
    (80 * (((s 2).self.val : Int) - (s 2).fe.slots.length) = (s 2).lif.slotAt + (s 2).lif.sinceReport + (0 : Nat) ∧
      80 * (((s 1).self.val : Int) - (s 1).fe.slots.length) = (s 1).lif.slotAt + (s 1).lif.sinceReport + (80 : Nat) ∧
      80 * (((s 2).self.val : Int) - (s 2).fe.slots.length) < (s 2).lif.slotAt + (1 : Nat)) ∧
    (member.fe.slotRequest = false ∧ (s 1).lif.low = false ∧ ({ (s 1).lif with low := true, lasted := 400 } : Lif).low = true ∧
      Stretch.running [75] = some 75 ∧ Stretch.seen [5] = some 5 ∧ 75 + 5 = 80 ∧ 0 + 80 + 0 = 80 ∧ 70 + 5 + 5 = 80 ∧
      400 ≤ 320 + 80 ∧ 319 + 80 < 400) ∧
    (80 - 54 = 26 ∧ ({ (s 0).lif with sinceReport := 80 } : Lif).sinceReport - 54 = 26) ∧
    ((s 15).fe.slots.length = 15 ∧ (s 0).lif.slotAt = 0 ∧ (s 0).lif.slotHeld = none ∧ (s 0).lif.slotSpoilt = false ∧
      { (s 0).lif with slotSpoilt := true }.slotSpoilt = true) ∧
    (∀ n ∈ [0, 20, 60, 80], Stretch.running [n] = some n) ∧
    (∀ p ∈ [(0, 20, 60), (39, 56, 0), (0, 19, 61), (0, 57, 23), (40, 40, 0), (79, 5, 0)],
      Stretch.seen [p.2.1] = some p.2.1 ∧ ((p.1 + p.2.1 + p.2.2 : Nat) : Int) = due p.1 p.2.1) ∧
    ((0 : Int) ≤ 0 ∧ (39 : Int) < 40 ∧ (-20 : Int) ≤ -20 + 0) ∧
    (((0 + 80 : Nat) : Int) = max 80 (0 + 56) ∧ ((79 + 56 : Nat) : Int) = max 80 (79 + 56)) ∧
    ((0 + 20 + 20 < 80) ∧ ((0 + 20 + 20 + 20 + 20 : Nat) : Int) = max (due 0 20) (due 40 20)) ∧
    (56 + 80 < 400 ∧ 319 + 80 < 400 ∧ (80 : Int) = 80 ∧ 56 + 60 < 400 ∧ ((60 + 20 : Nat) : Int) = 80) := by decide +kernel

/-- A roll that lacks station 9, a whole one, and an unreadable one. -/
def rollSlots (ks : List Nat) : List SlotReading :=
  (List.range 16).map fun k => if k ∈ ks then SlotReading.asserted else .empty

/-- A station in the REST whose roll goes to `use`. -/
def resting (use : RollUse) (slots : List SlotReading) (s : State) : State :=
  let r := onLine (.busy .rest) s
  { r with fe := { r.fe with rollUse := use, slots := slots } }

/-- Each use of the roll: nobody's; an order frame's, own and not, whole and not, before and at repeat number 3. -/
theorem test_witness_RestEndHandsTheRollOver :
    let s := closing record (resting .order (rollSlots [0, 2, 5]) member)
    (s.pins.resetLow = false ∧ s.lif.line = .busy .rest ∧ s.lif.low = false ∧ s.fe.tx = none) ∧
    (resting .none [] member).fe.rollUse = .none ∧
    (s.fe.rollUse = .order ∧ s.tc.closure = some record ∧ record.closed = false ∧ record.repSeen ≠ 3 ∧
      record.own = true ∧ StationSet.has record.expected 9 = true ∧ s.fe.slots[9]? ≠ some .asserted) ∧
    (SlotReading.damaged ∉ rollSlots [0, 2, 5, 9] ∧
      ∀ k : Station, StationSet.has record.expected k = true → (rollSlots [0, 2, 5, 9])[k.val]? = some .asserted) ∧
    SlotReading.damaged ∈ [SlotReading.damaged] ∧
    ({ record with repSeen := 3 }.repSeen = 3 ∧ s.cu.log = [] ∧ { record with own := false }.own = false) := by
  decide +kernel

/-- The source's side of a roll. The HAIL of station 9: station 0 answers as well, or the own station is the lowest; with a
stream of others, of the hailer alone, and of nobody. The own copy frame: whole or not, at repeat numbers 0 and 3, the head
of a stream with and without parts, a part before the last and the last. A log entry: open and closed, at repeat numbers 2
and 3. -/
theorem test_witness_RestEndHandsTheRollOver_copy :
    let s (use : RollUse) (ks : List Nat) (cu : Cu) := withCu cu (resting use (rollSlots ks) member)
    let cu (phase : CopyPhase) (set : StationSet) (rep : Fin 4) (index count : Nat) : Cu :=
      { Cu.reset with phase := phase, streamSet := set, repNo := rep, partIndex := index, partCount := count }
    ((s (.hail 9) [2, 5] Cu.reset).fe.rollUse = .hail 9 ∧ member.tc.state = .member) ∧
    (((0 : Station) < member.self ∧ (rollSlots [0, 2])[(0 : Station).val]? = some .asserted) ∧
      (member.self ≠ 9 ∧ (rollSlots [2, 5])[member.self.val]? = some .asserted ∧
        ∀ j : Station, j < member.self → j ≠ 9 → (rollSlots [2, 5])[j.val]? ≠ some .asserted)) ∧
    ((cu .head 0x0022#16 0 0 0).phase ≠ .idle ∧ (cu .head 0x0022#16 0 0 0).streamSet ≠ StationSet.one 9 ∧
      (cu .parts 0x0200#16 0 0 1).streamSet = StationSet.one 9 ∧ Cu.reset.phase = .idle ∧ Cu.reset.streamSet = 0) ∧
    (let whole (ks : List Nat) (c : Cu) : Prop :=
       ∀ k : Station, StationSet.has c.streamSet k = true → (rollSlots ks)[k.val]? = some .asserted
     let left (set : StationSet) (ks : List Nat) (c : Cu) : Prop :=
       ∀ k : Station, StationSet.has set k = true ↔
         StationSet.has c.streamSet k = true ∧ (rollSlots ks)[k.val]? = some .asserted
     (s .ownCopy [1] (cu .head 0x0022#16 2 0 1)).fe.rollUse = .ownCopy ∧ ¬ whole [1] (cu .head 0x0022#16 2 0 1) ∧
       (cu .head 0x0022#16 2 0 1).repNo ≠ 3 ∧ (cu .head 0x0022#16 3 0 1).repNo = 3 ∧
       left 0x0002#16 [1] (cu .head 0x0022#16 3 0 1) ∧ left 0 [] (cu .head 0x0022#16 3 0 1) ∧
       whole [1, 5] (cu .head 0x0022#16 0 0 0) ∧ (cu .head 0x0022#16 0 0 0).partCount = 0 ∧
       (cu .head 0x0022#16 0 0 1).partCount ≠ 0 ∧ (cu .parts 0x0022#16 0 0 2).partIndex + 1 < 2 ∧
       2 ≤ (cu .parts 0x0022#16 0 1 2).partIndex + 1 ∧ Cu.reset.waiting = 0 ∧
       ({ Cu.reset with waiting := 0x0020#16 } : Cu).waiting ≠ 0) ∧
    ((s (.log 2) [] copying.cu).fe.rollUse = .log 2 ∧ (s (.log 3) [] copying.cu).fe.rollUse = .log 3 ∧
      copying.cu.log = [entry 299 true] ++ [entry 300 false] ∧ (entry 299 true).closed = true) := by
  decide +kernel

theorem test_witness_HailRollDecides :
    let s (slots : List SlotReading) := resting .ownHail slots (inState .hailing offline)
    ((s []).pins.resetLow = false ∧ (s []).lif.line = .busy .rest ∧ (s []).lif.low = false ∧ (s []).fe.rollUse = .ownHail ∧
      (s []).tc.state = .hailing ∧ (s []).fe.tx = none) ∧
    SlotReading.damaged ∈ (s [.damaged]).fe.slots ∧
    (∀ k : Station, k ≠ (s [.asserted]).self → (s [.asserted]).fe.slots[k.val]? ≠ some .asserted) ∧
    ((1 : Station) ≠ (s [.empty, .asserted]).self ∧ (s [.empty, .asserted]).fe.slots[(1 : Station).val]? = some .asserted ∧
      ∀ j : Station, j < 1 → j ≠ (s [.empty, .asserted]).self → (s [.empty, .asserted]).fe.slots[j.val]? ≠ some .asserted) := by
  decide +kernel

/-- The five cases: no roll, unreadable, alone, the own station missing, others missing, nobody missing. -/
theorem test_witness_ClosureEndsByTheFinalRoll :
    record.lastRoll = none ∧
    (record.own = true ∧ (∃ k : Station, k ≠ 2 ∧ StationSet.has record.expected k = true) ∧
      ∀ k : Station, k ≠ 2 → StationSet.has record.expected k = true → StationSet.has 0x0004#16 k = false) ∧
    (StationSet.has record.expected 2 = true ∧ StationSet.has 0x0021#16 2 = false) ∧
    record.expected &&& ~~~(0x0025#16) = StationSet.one 9 ∧ record.expected &&& ~~~(0x0225#16) = 0 := by decide +kernel

/-- No closure with an empty log and with an entry; a closure that ends in each of the three lags; a final roll that holds
every expected station, and one that lacks station 9; and the closure of the own LEAVE. -/
theorem test_witness_YieldLapseTakesTheClosure :
    let s : State := { member with fe := { member.fe with hold := true, yieldTimer := some 0 } }
    let c (roll : StationSet) : ClosureRecord := { record with lastRoll := some (.readable roll), repSeen := 3 }
    (s.pins.resetLow = false ∧ s.lif.line = .idle ∧ s.fe.hold = true ∧ s.fe.yieldTimer ≠ none ∧ s.fe.tx = none ∧
      s.noClosure ∧ s.cu.log = []) ∧
    [entry 299 false] = [] ++ [entry 299 false] ∧
    (record.ending s.self = .lag .rollUnreadable ∧ (c 0x0004#16).ending s.self = .lag .staleSelf ∧
      (c 0x0221#16).ending s.self = .lag .selfEvicted) ∧
    ((closing (c 0x0225#16) s).tc.closure = some (c 0x0225#16) ∧ (c 0x0225#16).closed = false ∧
      ¬ (s.tc.state = .leaving ∧ (c 0x0225#16).own = true) ∧
      ∀ k : Station, StationSet.has (c 0x0225#16).expected k = true → StationSet.has 0x0225#16 k = true) ∧
    ((c 0x0025#16).ending s.self = .evict ((c 0x0025#16).expected &&& ~~~(0x0025#16)) ∧
      (c 0x0025#16).expected &&& ~~~(0x0025#16) ≠ 0 ∧
      StationSet.has ((c 0x0025#16).expected &&& ~~~(0x0025#16)) s.self = false ∧
      ∀ g ∈ (s.ztu.remove s.tc.roster ((c 0x0025#16).expected &&& ~~~(0x0025#16)) s.self).grants,
        g.entry.station ≠ s.self) ∧
    (let l : ClosureRecord := { c 0x0221#16 with op := .leave, expected := 0x0221#16 }
     (inState .leaving s).tc.state = .leaving ∧ l.own = true ∧
       l.ending s.self = .evict (l.expected &&& ~~~(0x0221#16))) := by
  refine ⟨⟨rfl, rfl, rfl, by decide, rfl, trivial, rfl⟩, rfl, by decide +kernel, ⟨rfl, rfl, by decide, by decide +kernel⟩, ?_,
    by decide +kernel⟩
  exact ⟨by decide +kernel, by decide, by decide, by decide +kernel⟩

/-- A closure pending at the CLOSE of another frame, a HAIL and the order frame of the next turn; and the eviction of
station 9, which grants the own station both the zones it waits for. -/
theorem test_witness_YieldLapseTakesTheClosure_more :
    let c : ClosureRecord := { record with lastRoll := some (.readable 0x0025#16), repSeen := 3 }
    let s := closing c waiting
    let gone : StationSet := c.expected &&& ~~~(0x0025#16)
    let zones : List Zone := (s.ztu.remove s.tc.roster gone s.self).grantedTo s.self
    ((receiving hailFrom0 s).receives hailFrom0 ∧ (∀ op, hailFrom0.payload ≠ .order op)) ∧
    ((receiving (orderFrom 0 .touch 418) s).receives (orderFrom 0 .touch 418) ∧ c.turn ≠ (orderFrom 0 .touch 418).turn) ∧
    (s.tc.closure = some c ∧ c.closed = false ∧ s.cu.log = [] ∧ s.fe.tx = none) ∧
    (c.ending s.self = .evict gone ∧ gone ≠ 0 ∧ StationSet.has gone s.self = false ∧ s.tc.state = .member ∧
      ¬ (s.tc.state = .leaving ∧ c.own = true)) ∧
    s.ru.waitsIn zones ∧ zones = [7, 63] := by
  refine ⟨⟨receives_of rfl ⟨rfl, rfl⟩ rfl rfl (accepted_copy _ (by simp)), fun op h => by cases h⟩,
    ⟨receives_of rfl ⟨rfl, rfl⟩ rfl rfl (accepted_touch _ (by simp)), by decide⟩, ⟨rfl, rfl, rfl, rfl⟩,
    ⟨by decide +kernel, by decide, by decide, rfl, by decide⟩, waitsIn_of ?_ ?_, ?_⟩ <;> decide +kernel

/-- A line that is not IDLE, and one that is still driven; each source; the hold and a closure in the way of it; the states
that offer none; and the frames of a stream, at repeat numbers 0 and 1. -/
theorem test_witness_FrameTakeServesTheSources :
    let p : RepeatPending := { frame := { orderFrom 2 .touch 416 with repNo := 1 }, tries := 0 }
    let img : CopyImage := { turn := 417, recs := [partRec], headBody := headBytes }
    (member.pins.resetLow = false ∧ member.fe.tx = none ∧ (onLine .unsynced member).lif.line ≠ .idle ∧
      ({ member.lif with drive := some { symbol := .haltSymbol, left := 1 } } : Lif).drive ≠ none) ∧
    (member.lif.line = .idle ∧ member.lif.drive = none ∧ member.tc.state = .member ∧ member.fe.hold = false ∧
      member.noClosure ∧ member.fe.rept = none ∧ member.ru.touchOnLine = false ∧ member.ru.queue = [] ∧
      member.fe.copy = none ∧ member.ru.touchFlag = false) ∧
    ({ member with fe := { member.fe with rept := some p } } : State).fe.rept = some p ∧
    (({ member with fe := { member.fe with hold := true } } : State).fe.hold = true ∧ (closing record member).tc.closure = some record ∧ record.closed = false) ∧
    (offline.tc.state = .offline ∧ copying.tc.state = .copying ∧ (inState .leaving member).tc.state = .leaving) ∧
    (({ inState .hailing member with fe := { member.fe with hail := some 7 } } : State).fe.hail ≠ none ∧
      ({ inState .joining member with fe := { member.fe with join := some 0 } } : State).fe.join ≠ none ∧
      (inState .hailing member).fe.hail = none ∧ (inState .founding member).fe.join = none) ∧
    ({ member with ru := { member.ru with touchFlag := true } } : State).ru.touchFlag = true ∧
    (∀ q ∈ (queued seven member).ru.queue, q.onLine = false) ∧
    (let s (phase : CopyPhase) (rep : Fin 4) : State :=
       { withCu { Cu.reset with phase := phase, repNo := rep, image := some img } member with
         fe := { member.fe with copy := some 0 } }
     (s .head 0).fe.copy ≠ none ∧ (s .head 0).cu.phase = .head ∧ (s .head 0).cu.repNo = 0 ∧ (s .head 1).cu.repNo ≠ 0 ∧
       (s .parts 1).cu.phase = .parts ∧ (s .parts 1).cu.image = some img ∧ (packParts img.recs)[0]? = some [partRec]) := by
  refine ⟨by decide, ⟨rfl, rfl, rfl, rfl, trivial, rfl, rfl, rfl, rfl, rfl⟩, rfl, ⟨rfl, rfl, rfl⟩, ⟨rfl, rfl, rfl⟩,
    ⟨by decide, by decide, rfl, rfl⟩, rfl, by decide, ?_⟩
  exact ⟨by decide, rfl, rfl, by decide, rfl, rfl, by decide +kernel⟩

/-- The sixth bit of station 2's HAIL, 00 1101 00, is a BIT1; its second is a BIT0, and so is its seventh. -/
theorem test_witness_SenderTests :
    (∀ p ∈ [(true, 0), (false, 1), (false, 6)],
      let s := driving (.bit p.1) p.2 21
      let a := drivingAttempt p.2
      s.startsWithin a (.bit p.1) 0 ∧ s.startsWithin a (.bit p.1) (60 - s.lif.lasted) ∧
        ¬ s.runsOut a (.bit p.1) (60 - s.lif.lasted)) ∧
    (∀ p ∈ [(true, 0), (false, 1), (false, 6)],
      let s := driving (.bit p.1) p.2 21
      let a := drivingAttempt p.2
      s.fe.tx = some a ∧ a.faulted = false ∧ s.lif.line = .busy .frame ∧ s.lif.low = false ∧
        s.lif.drive = some { symbol := .bit p.1, left := 21 } ∧ 21 ≤ 61 - s.lif.lasted ∧
        (s.fe.rx.map fun r => (r.bits.length, a.bits[r.bits.length]?, decide (r.bits.length < a.driven))) =
          some (p.2, some p.1, true)) ∧
    (let s := driving .openSymbol 0 40
     let a := drivingAttempt 0
     s.startsWithin a .openSymbol 0 ∧ s.compares a .openSymbol ∧ s.runsOut a .openSymbol 40) ∧
    (let s := driving .openSymbol 0 40
     s.fe.tx = some (drivingAttempt 0) ∧ s.lif.drive = some { symbol := .openSymbol, left := 40 } ∧ s.pending = [] ∧
       s.tc.waitTimer = none ∧ s.cu.copyTimer = none) ∧
    let a := attempt .hail { payload := .hail, repNo := 0, orig := 2, turn := 0 }
    let r (n : Nat) : Reception := { bits := a.bits.take n, crc := 0xFFFF#16, mark := true }
    (a.faulted = false ∧ a.bits[(r 4).bits.length]? = some false ∧ (r 4).bits.length < 6 ∧
      a.bits[(r 6).bits.length]? = some false ∧ 6 ≤ (r 6).bits.length ∧ a.bits[(r 5).bits.length]? = some true) ∧
    ((sendingOn (.busy .pulse) false).fe.rx = none ∧ (sendingOn (.busy .pulse) false).lif.line = .busy .pulse) ∧
    (∀ n ∈ [5, 19, 20, 57, 59, 60, 61, 63, 64, 104, 105, 139, 159, 179, 399], Stretch.seen [n] = some n) ∧
    (20 ≤ 20 ∧ 60 ≤ 60 ∧ 64 ≤ 64 ∧ 104 ≤ 104 ∧ 60 < 61 ∧ 63 < 64 ∧ 104 < 105 ∧ 399 < 400) ∧
    (19 < 20 ∧ 59 < 60 ∧ 56 < 57 ∧ 60 ≤ 60 ∧ 63 ≤ 100 ∧ 139 < 140 ∧ 159 < 160 ∧ 179 < 180) ∧
    member.tc.state ≠ .founding := by
  refine ⟨fun p _ => ⟨driving_starts (by decide), driving_starts ?_, driving_goes_on ?_⟩, by decide +kernel,
    ⟨driving_starts (by decide), ⟨rfl, rfl⟩, Or.inr rfl, fun r hr => (by cases hr), rfl, fun l hl => (by cases hl; decide)⟩,
    by decide +kernel, by decide +kernel⟩
  all_goals show 60 - 40 < 21; decide

/-- An attempt of a source that stands in its halt, with `n` tries at the source. -/
def failing (src : Source) (n : Nat) : State :=
  let p : RepeatPending := { frame := orderFrom 2 .touch 417, tries := n }
  { queued [req 1 .touch n (src == .request), req 2 .touch] (onLine (.busy .frame) member) with
    fe := { member.fe with
      tx := some { attempt src (orderFrom 2 .touch 417) with faulted := true }
      rept := some p, join := some n, hail := some n, copy := some n } }

/-- HALTs of 400 and 1599, in each line state; a FOUNDING station that receives another's frame; each source at its seventh
and at its eighth try; and an own OPEN and an own BIT1 that are still compared. -/
theorem test_witness_HaltsEndFramesAndAttempts :
    (∀ n ∈ [400, 1599], Stretch.seen [n] = some n ∧ 400 ≤ n ∧ n < 1600) ∧
    ((onLine .stuck member).lif.line = .stuck ∧ (onLine (.busy .roll) member).fe.rx = none ∧
      (onLine (.busy .rest) member).lif.line = .busy .rest ∧ member.lif.line ≠ .stuck ∧
      member.lif.line ≠ .busy .roll ∧ member.lif.line ≠ .busy .rest ∧ member.fe.tx = none ∧ member.tc.state ≠ .founding) ∧
    (let s := beginning false (onLine (.busy .frame) (inState .founding member))
     s.tc.state = .founding ∧ s.fe.rx = some (Reception.start false) ∧ (Reception.start false).mark = false) ∧
    (∀ src ∈ [Source.request, .touch, .rept, .copy, .hail, .join], ∀ n ∈ [6, 7],
      (failing src n).fe.rx = none ∧ (failing src n).lif.line = .busy .frame ∧
        ((failing src n).fe.tx.map fun a => (a.source, a.faulted, a.withdrawn)) = some (src, true, false)) ∧
    ((failing .request 6).ru.queue = req 1 .touch 6 true :: [req 2 .touch] ∧ (∀ p ∈ [req 2 .touch], p.onLine = false) ∧
      (failing .touch 0).ru.touchTries < 7 ∧ { member.ru with touchTries := 7 }.touchTries = 7 ∧
      (failing .copy 7).fe.copy = some 7 ∧ (failing .hail 6).fe.hail = some 6 ∧ (failing .join 7).fe.join = some 7 ∧
      (failing .copy 7).tc.state = .member ∧ (failing .copy 7).cu.waiting = 0 ∧
      { Cu.reset with waiting := 0x0020#16 }.waiting ≠ 0) ∧
    ((driving .openSymbol 0 1).startsWithin (drivingAttempt 0) .openSymbol 0 ∧
      (driving (.bit true) 0 1).startsWithin (drivingAttempt 0) (.bit true) 0 ∧
      (driving (.bit false) 4 1).startsWithin (drivingAttempt 4) (.bit false) 0 ∧
      (driving (.bit false) 6 1).startsWithin (drivingAttempt 6) (.bit false) 0) ∧
    (∀ n ∈ [4, 6], let s := driving (.bit false) n 1
      s.lif.line = .busy .frame ∧ s.tc.state ≠ .founding ∧ s.fe.tx = some (drivingAttempt n) ∧
        (s.fe.rx.map fun r => (r.bits.length, r.mark, (drivingAttempt n).bits[r.bits.length]?)) =
          some (n, true, some false)) ∧
    (inState .founding (driving (.bit false) 4 1)).tc.state = .founding ∧
    ((driving .openSymbol 0 1).fe.rx = none ∧ (driving .openSymbol 0 1).lif.line = .busy .pulse ∧
      (driving (.bit true) 0 1).lif.line = .busy .frame ∧ (drivingAttempt 0).bits[0]? = some true ∧
      (drivingAttempt 0).withdrawn = false) ∧
    (let s := beginning true (sendingOn (.busy .frame) false)
     s.lif.line = .busy .frame ∧ s.fe.rx = some (Reception.start true) ∧
       (s.fe.tx.map fun a => (a.withdrawn, decide (a.driven ≤ 0), decide (0 < a.bits.length))) = some (false, true, true)) ∧
    ((onLine (.busy .haltRest) member).lif.line = .busy .haltRest ∧ (onLine (.busy .haltRest) member).lif.low = false) := by
  exact ⟨by decide +kernel, by decide +kernel, by decide +kernel, by decide +kernel, by decide +kernel,
    ⟨driving_starts (by decide), driving_starts (by decide), driving_starts (by decide), driving_starts (by decide)⟩,
    by decide +kernel⟩

/-- Stretches and pulses at the bounds of their windows; a sender that compares and one that does not; each line state; and a
pulse after a stretch of damage that begins nothing, begins a frame and is a HALT. -/
theorem test_witness_DamageAndResynchronisation :
    ((driving (.bit true) 0 21).startsWithin (drivingAttempt 0) (.bit true) (60 - 40) ∧
      ¬ (driving (.bit true) 0 21).runsOut (drivingAttempt 0) (.bit true) (61 - 41) ∧
      (driving .openSymbol 0 1).startsWithin (drivingAttempt 0) .openSymbol 0) ∧
    (member.pins.resetLow = false ∧ member.tc.state ≠ .founding ∧ member.fe.tx = none ∧ member.fe.rx = none) ∧
    (∀ n ∈ [5, 19, 57, 61, 63, 105, 139, 159, 160, 240, 241, 399, 400, 1599], Stretch.seen [n] = some n) ∧
    (19 < 20 ∧ 60 < 61 ∧ 139 < 140) ∧ (5 ≤ 5 ∧ 56 < 57 ∧ 63 < 64 ∧ 104 < 105 ∧ 399 < 400) ∧
    (159 < 160 ∧ 160 ≤ 160 ∧ 240 ≤ 240 ∧ 240 < 241 ∧ 400 ≤ 400 ∧ 1599 < 1600) ∧
    ((onLine (.busy .frame) member).lif.line = .busy .frame ∧ member.lif.line = .idle ∧
      (onLine (.busy .rest) member).lif.line = .busy .rest ∧ (onLine (.busy .haltRest) member).lif.line = .busy .haltRest) ∧
    (let s := beginning true (sendingOn (.busy .frame) false)
     s.fe.rx = some (Reception.start true) ∧ (Reception.start true).mark = true ∧
       (s.fe.tx.map fun a => (a.faulted, a.bits[0]?)) = some (false, some true) ∧ 63 ≤ 100 ∧ 159 ≤ 220) ∧
    ((sendingOn (.busy .frame) true).fe.tx.map fun a => a.faulted) = some true ∧
    ((onLine .unsynced member).lif.line = .unsynced ∧ (onLine .unsynced member).lif.low = false) ∧
    ((Lif.reset true).line = .unsynced ∧ (Lif.reset true).low = true ∧ Stretch.running [3] = some 3 ∧
      Stretch.running [3, 4, 152] = some 159) ∧
    (onLine .stuck member).lif.line = .stuck := by
  exact ⟨⟨driving_starts (by decide), driving_goes_on (by decide), driving_starts (by decide)⟩, by decide +kernel⟩

/-- No frame of the own, and a FOUNDING station that receives another's; an attempt of each source at its seventh and at its
eighth try, and one withdrawn; an own BIT0 in the arbitration field and after it; the roll and the REST; the STUCK line,
dominant and recessive. -/
theorem test_witness_StuckAndClear :
    ((driving (.bit false) 1 1).startsWithin (drivingAttempt 1) (.bit false) 0 ∧
      (driving (.bit false) 6 1).startsWithin (drivingAttempt 6) (.bit false) 0) ∧
    ((drivingAttempt 1).bits[1]? = some false ∧ (drivingAttempt 6).bits[6]? = some false ∧
      ((beginning true (sendingOn (.busy .frame) false)).fe.tx.map fun a => decide (a.driven ≤ 0)) = some true) ∧
    (member.pins.resetLow = false ∧ member.lif.line ≠ .stuck ∧ member.lif.line ≠ .busy .roll ∧
      member.lif.line ≠ .busy .rest ∧ member.fe.tx = none ∧ member.fe.rx = none ∧ member.tc.state ≠ .founding) ∧
    (let s := beginning false (onLine (.busy .frame) (inState .founding member))
     s.tc.state = .founding ∧ s.fe.tx = none ∧ s.fe.rx = some (Reception.start false) ∧
       (Reception.start false).mark = false) ∧
    (∀ src ∈ [Source.request, .touch, .rept, .copy, .hail, .join], ∀ n ∈ [6, 7], (failing src n).fe.rx = none ∧
      ((failing src n).fe.tx.map fun a => (a.source, a.withdrawn)) = some (src, false)) ∧
    ((failing .request 7).ru.queue = req 1 .touch 7 true :: [req 2 .touch] ∧ (req 1 .touch 7 true).onLine = true ∧
      ∀ p ∈ [req 2 .touch], p.onLine = false) ∧
    { attempt .rept (orderFrom 2 .touch 417) with withdrawn := true }.withdrawn = true ∧
    (let a := attempt .hail { hailFrom0 with orig := 2 }
     a.faulted = false ∧ a.bits[1]? = some false ∧ 1 < 6 ∧ a.bits[6]? = some false ∧ 6 ≤ (a.bits.take 6).length) ∧
    ((onLine (.busy .roll) member).lif.line = .busy .roll ∧ (onLine (.busy .rest) member).lif.line = .busy .rest) ∧
    ((onLine .stuck member).lif.line = .stuck ∧ member.pending = [] ∧
      ({ (onLine .stuck member).lif with low := true } : Lif).low = true) := by
  exact ⟨⟨driving_starts (by decide), driving_starts (by decide)⟩, by decide +kernel⟩

theorem test_witness_TimersExpire :
    ({ member with tc := { member.tc with waitTimer := some 0 } } : State).tc.waitTimer ≠ none ∧
      copying.cu.copyTimer ≠ none ∧ copying.fe.tx = none ∧ copying.pins.resetLow = false := by decide

/-- Each timer and each count of the line a quantum below its limit and just at it, with nothing else due. -/
theorem test_witness_TimersExpire_idle :
    (member.pins.resetLow = false ∧ member.pending = [] ∧ member.fe.tx = none ∧ member.tc.waitTimer = none ∧
      member.cu.copyTimer = none ∧ member.hp.waitLimit.toNat = 16) ∧
    (16 * 4096 ≤ 65535 + 1 ∧ ¬ 16 * 4096 ≤ 65534 + 1) ∧ (4096 ≤ 4095 + 1 ∧ ¬ 4096 ≤ 4094 + 1) ∧
    (6 ≤ 5 + 1 ∧ ¬ 6 ≤ 4 + 1) ∧ (1920 ≤ 1880 + 40 ∧ ¬ 1920 ≤ 1879 + 40) ∧ (1600 ≤ 1560 + 40 ∧ ¬ 1600 ≤ 1559 + 40) ∧
    (member.lif.line = .idle ∧ member.lif.low = false ∧ (onLine .unsynced member).lif.line = .unsynced ∧
      (onLine .stuck member).lif.line = .stuck ∧ (onLine .stuck member).lif.low = false) ∧
    ¬ (driving (.bit true) 0 41).runsOut (drivingAttempt 0) (.bit true) 40 := by
  exact ⟨by decide, by decide, by decide, by decide, by decide, by decide, by decide, driving_goes_on (by decide)⟩

/-- R49, R92, R154 to R156, R167: the counts end at the wait limit times 4096Q, 4096Q, 48Q, 40Q and 6Q, and not one quantum
before. -/
theorem test_tick_limits :
    let wait (n : Nat) : State := { member with tc := { member.tc with waitTimer := some n } }
    let copy (n : Nat) : State := { copying with cu := { copying.cu with copyTimer := some n } }
    let quiet (l : LineState) (n : Nat) : State := { member with lif := { member.lif with line := l, lasted := n } }
    let low (n : Nat) : State := { member with lif := { member.lif with line := .busy .frame, low := true, lasted := n } }
    let yield (n : Nat) : State := { member with fe := { member.fe with hold := true, yieldTimer := some n } }
    [65534, 65535].map (fun n => (wait n).tick.ru.touchFlag) = [false, true] ∧
      [4094, 4095].map (fun n => (copy n).tick.tc.state) = [.copying, .hailing] ∧
      [1879, 1880].map (fun n => (quiet .unsynced n).tick.lif.line) = [.unsynced, .idle] ∧
      [1879, 1880].map (fun n => (quiet .stuck n).tick.lif.line) = [.stuck, .idle] ∧
      [1559, 1560].map (fun n => (low n).tick.lif.line) = [.busy .frame, .stuck] ∧
      [4, 5].map (fun n => (yield n).tick.fe.hold) = [true, false] := by decide +kernel

/-- Bodies of 9, 6 and 24 bytes. -/
theorem test_witness_SentFramesAreAccepted :
    headBytes.length = 9 ∧ (6 ≤ (List.replicate 6 (0 : Byte)).length ∧ (List.replicate 24 (0 : Byte)).length ≤ 24) := by
  decide

theorem test_witness_AcceptedFramesAreWhatWasReceived :
    let bits := hailFrom0.bits
    acceptFrame bits (crcBits 0xFFFF#16 ((bits.drop 8).take (bits.length - 24))) = some hailFrom0 := by decide +kernel

theorem test_witness_HostCommandsAreTakenWhole :
    operandCount 0x00#8 = none ∧ 0 < (HostCmd.status).bytes.length ∧ 4 < (HostCmd.submit 1 2 3 4).bytes.length := by
  decide

/-- A record with a queue of 16 entries, one with 31, and two records that take two parts. -/
theorem test_witness_SnapshotsAreCutAndReadBack :
    let r : CopyRec := { zone := 1, code := 1, holders := 1, queue := List.replicate 16 (wait 3 .shared) }
    r.queue.length ≤ 16 ∧ packParts [r, r] = [] ++ [r] :: [r] :: [] ∧ 22 < ([r].map CopyRec.size).sum + r.size ∧
      (List.replicate 31 (wait 3 .shared)).length ≤ 31 := by decide +kernel

/-- A holder, a waiting station, a station in neither, and a lawful table with a station outside the roster. -/
theorem test_witness_EditsThatChangeNothing :
    (StationSet.has 0x0225#16 9 = true ∧ StationSet.has (member.ztu.zone 7).holders 9 = true) ∧
    (StationSet.has 0x0225#16 0 = true ∧ StationSet.has (member.ztu.zone 7).holders 0 = false ∧
      ∃ w ∈ (member.ztu.zone 7).queue, w.station = 0) ∧
    (StationSet.has (member.ztu.zone 7).holders 5 = false ∧ ∀ w ∈ (member.ztu.zone 7).queue, w.station ≠ 5) ∧
    (member.tableLaw ∧ StationSet.has member.tc.roster 1 = false) := by
  refine ⟨by decide +kernel, by decide +kernel, by decide +kernel, ?_, by decide⟩
  rw [State.tableLaw_iff]
  decide +kernel

/-- A claim from outside the roster; a direct grant; a queued claim with one pool entry left; one with none left. -/
theorem test_witness_ClaimDecision :
    StationSet.has 0x0225#16 1 = false ∧ StationSet.has 0x0225#16 5 = true ∧
    ((member.ztu.zone 9).stateLaw ∧ (member.ztu.zone 9).state = .free) ∧
    (StationSet.has (member.ztu.zone 7).holders 5 = false ∧ (∀ w ∈ (member.ztu.zone 7).queue, w.station ≠ 5) ∧
      ¬ ((member.ztu.zone 7).state = .free ∨
        ((member.ztu.zone 7).state = .shared ∧ (member.ztu.zone 7).queue = [] ∧ Mode.shared = .shared))) ∧
    (member.ztu.zone 7).stateLaw ∧ (tableOf [] 1).free ≠ 0 ∧ (tableOf [] 0).free = 0 := by
  refine ⟨by decide, by decide, ⟨?_, by decide +kernel⟩, by decide +kernel, ?_, by decide, by decide⟩
  · rw [← ZoneRec.settled_iff]; decide +kernel
  · rw [← ZoneRec.settled_iff]; decide +kernel

theorem test_witness_ReleaseGivesUpTheStanding :
    (member.ztu.zone 7).apart ∧ StationSet.has (member.ztu.zone 7).holders 9 = true ∧
      (member.ztu.zone 7).queue = [] ++ wait 0 .exclusive :: [] := by decide +kernel

theorem test_witness_RemovalTakesTheSetOut : member.tableLaw ∧ member.poolLaw := by
  refine ⟨?_, by decide +kernel⟩
  rw [State.tableLaw_iff]
  decide +kernel

theorem test_witness_JoinReadmits :
    member.tableLaw ∧ StationSet.has member.tc.roster 1 = false ∧ StationSet.has member.tc.roster 9 = true := by
  refine ⟨?_, by decide, by decide⟩
  rw [State.tableLaw_iff]
  decide +kernel

/-- Zone 63 named by the image, zone 0 not; the image accepted, and refused when the head counted two zones. -/
theorem test_witness_InstallMakesTheImageTheTable :
    let recs := [copyRecOf 63 (zrec .exclusive 0x0001#16 [wait 5 .shared])]
    imageAccepted 0x0021#16 1 recs = true ∧ imageAccepted 0x0021#16 2 recs = false ∧
      (∃ c ∈ recs, (63 : Zone).val = c.zone.toNat) ∧ ∀ c ∈ recs, c.zone.toNat ≠ (0 : Zone).val := by decide +kernel

/-- The final part, and a head with none, at a requester that awaits them; a log that is empty, and one entry: of the own
number, open, closed with no roll, with an unreadable one, with one that lacks the own station, with a whole one and with
one that lacks station 5. -/
theorem test_witness_InstallMakesTheImageTheTable_close :
    let st : ReqStream := { stream with roster := 0x0025#16, partCount := 2, occupied := 1 }
    let f := partOf 1 ([partRec].flatMap CopyRec.bytes)
    let e (roll : Option Roll) (closed : Bool) : LogEntry := { entry 300 closed with lastRoll := roll }
    ((receiving f copying).receives f ∧ (receiving f copying).noClosure ∧ copying.tc.state = .copying ∧
      copying.cu.awaited = some f.orig) ∧
    ((receiving (headOf 0 0) copying).receives (headOf 0 0) ∧ StationSet.has 0x0004#16 copying.self = true ∧
      copying.cu.stream = none ∧ (∀ x, some { st with number := 3 } = some x → x.number ≠ 4) ∧
      (withCu { copying.cu with log := [] } copying).cu.log = [] ∧
      ∀ x ∈ [entry 299 true], 1 ≤ (300#16 - x.turn).toNat ∧ (300#16 - x.turn).toNat ≤ 32767) ∧
    (st.number = 4 ∧ st.nextPart = (1#8 : Byte).toNat ∧ st.nextPart + 1 = st.partCount ∧
      imageAccepted st.roster st.occupied ([] ++ [partRec]) = true ∧
      imageAccepted { st with occupied := 2 }.roster { st with occupied := 2 }.occupied ([] ++ [partRec]) = false) ∧
    ({ entry 300 false with orig := 2 }.orig = copying.self ∧ (entry 300 false).orig ≠ copying.self ∧
      (e none true).closed = true ∧ (e (some .unreadable) true).lastRoll = some .unreadable) ∧
    (let x := (Ztu.ofImage [partRec]).apply st.roster 0 copying.self .touch
     x.foreign = false ∧ StationSet.has (x.roster &&& ~~~(0x0021#16)) copying.self = true ∧
       x.roster &&& ~~~(0x0025#16) = 0 ∧ x.roster &&& ~~~(0x0005#16) ≠ 0 ∧
       StationSet.has (x.roster &&& ~~~(0x0005#16)) copying.self = false) := by
  refine ⟨⟨receives_of rfl ⟨rfl, rfl⟩ rfl rfl (accepted_copy _ (by simp)), trivial, rfl, rfl⟩,
    ⟨receives_of rfl ⟨rfl, rfl⟩ rfl rfl (accepted_copy _ (by simp)), by decide, rfl, fun _ h => by cases h; decide, rfl,
      by decide⟩, ?_, ?_, ?_⟩
  · exact ⟨rfl, by decide, rfl, by decide +kernel, by decide +kernel⟩
  · exact ⟨rfl, by decide, rfl, rfl⟩
  · decide +kernel

end Sys2Proof.Tests
end

section
/-! SUPPORT. One equation for each outcome of the CLAIM edit, the RELEASE that changes nothing, and the advances that
grant nothing; then the statements O49 and O50, put together from them. -/

namespace Sys2Proof

theorem StationSet.ne_zero_of_has {s : StationSet} {k : Station} (h : StationSet.has s k = true) : s ≠ 0 := by
  rintro rfl
  simp at h

namespace Machine

/-! ### The edit of an order frame, by kind (R8, R9) -/

theorem Ztu.apply_claim (t : Ztu) (roster : StationSet) (k own : Station) (z : Zone) (m : Mode) :
    t.apply roster k own (.claim z m) = { t.claim roster k z m with foreign := !StationSet.has roster k } := rfl

theorem Ztu.apply_release (t : Ztu) (roster : StationSet) (k own : Station) (z : Zone) :
    t.apply roster k own (.release z) = { t.release roster k z with foreign := !StationSet.has roster k } := rfl

theorem Ztu.apply_touch (t : Ztu) (roster : StationSet) (k own : Station) :
    t.apply roster k own .touch = { t.unchanged roster .done with foreign := !StationSet.has roster k } := rfl

/-! ### Standing in a zone -/

theorem ZoneRec.waits_eq_false_iff (r : ZoneRec) (k : Station) :
    r.waits k = false ↔ ∀ w ∈ r.queue, w.station ≠ k := by
  simp [ZoneRec.waits]

/-- In a record that meets the law of R11, a station outside the roster neither holds nor waits. -/
theorem ZoneRec.known.absent {roster : StationSet} {r : ZoneRec} (hr : r.known roster) {k : Station}
    (hk : StationSet.has roster k = false) :
    StationSet.has r.holders k = false ∧ ∀ w ∈ r.queue, w.station ≠ k := by
  obtain ⟨hold, wait⟩ := hr
  constructor
  · exact Bool.eq_false_iff.2 fun h => Bool.false_ne_true (hk.symm.trans (hold k h))
  · rintro w hw rfl
    exact Bool.false_ne_true (hk.symm.trans (wait w hw))

/-! ### Edits that leave a record as it is -/

theorem Ztu.claim_of_stranger {roster : StationSet} {k : Station} (hk : StationSet.has roster k = false) (t : Ztu)
    (z : Zone) (m : Mode) : t.claim roster k z m = t.unchanged roster .refusedNotMember := by
  simp [Ztu.claim, hk]

theorem Ztu.claim_of_holder {t : Ztu} {roster : StationSet} {k : Station} {z : Zone}
    (hk : StationSet.has roster k = true) (hh : StationSet.has (t.zone z).holders k = true) (m : Mode) :
    t.claim roster k z m = t.unchanged roster .refusedHeld := by
  simp [Ztu.claim, hk, hh]

theorem Ztu.claim_of_waiting {t : Ztu} {roster : StationSet} {k : Station} {z : Zone}
    (hk : StationSet.has roster k = true) (hh : StationSet.has (t.zone z).holders k = false)
    (hw : (t.zone z).waits k = true) (m : Mode) :
    t.claim roster k z m = t.unchanged roster .refusedWaiting := by
  simp [Ztu.claim, hk, hh, hw]

theorem Ztu.release_of_absent {t : Ztu} {k : Station} {z : Zone} (hh : StationSet.has (t.zone z).holders k = false)
    (hw : (t.zone z).waits k = false) (roster : StationSet) :
    t.release roster k z = t.unchanged roster .refusedNotHeld := by
  simp [Ztu.release, hh, hw]

/-- Settles O49: each edit named is the unchanged report, and the law of R11 puts a station outside the roster on the
path of R17. -/
theorem editsThatChangeNothing : Obligations.EditsThatChangeNothing := by
  unfold Obligations.EditsThatChangeNothing
  have absent : ∀ (t : Ztu) (roster : StationSet) (k self : Station) (z : Zone),
      StationSet.has (t.zone z).holders k = false → (∀ w ∈ (t.zone z).queue, w.station ≠ k) →
      t.apply roster k self (.release z) =
        { t.unchanged roster .refusedNotHeld with foreign := !StationSet.has roster k } := by
    intro t roster k self z hh hq
    rw [Ztu.apply_release, Ztu.release_of_absent hh ((ZoneRec.waits_eq_false_iff _ k).2 hq)]
  refine ⟨fun t roster k self z m hk => ⟨fun hh => ?_, fun hh hq => ?_⟩, absent, ?_, ?_⟩
  · rw [Ztu.apply_claim, Ztu.claim_of_holder hk hh, hk]
    rfl
  · rw [Ztu.apply_claim, Ztu.claim_of_waiting hk hh ((ZoneRec.waits_iff _ k).2 hq), hk]
    rfl
  · intro s k z hs hk
    obtain ⟨-, -, known⟩ := hs z
    obtain ⟨hh, hq⟩ := known.absent hk
    rw [absent s.ztu s.tc.roster k s.self z hh hq, hk]
    exact ⟨rfl, rfl⟩
  · exact fun t roster k self => t.apply_touch roster k self

/-! ### A CLAIM of a member that is not present in the zone -/

section NotPresent

variable {t : Ztu} {roster : StationSet} {k : Station} {z : Zone} {m : Mode}

theorem Ztu.claim_of_grantsAtOnce (hk : StationSet.has roster k = true)
    (hh : StationSet.has (t.zone z).holders k = false) (hw : (t.zone z).waits k = false)
    (hg : (t.zone z).grantsAtOnce m = true) :
    t.claim roster k z m =
      t.editZone roster z { t.zone z with state := m.zoneState, holders := StationSet.add (t.zone z).holders k }
        .granted := by
  simp [Ztu.claim, hk, hh, hw, hg]

theorem Ztu.claim_of_emptyPool (hk : StationSet.has roster k = true)
    (hh : StationSet.has (t.zone z).holders k = false) (hw : (t.zone z).waits k = false)
    (hg : (t.zone z).grantsAtOnce m = false) (hf : t.free = 0) :
    t.claim roster k z m = t.unchanged roster .refusedPool := by
  simp [Ztu.claim, hk, hh, hw, hg, hf]

theorem Ztu.claim_of_queued (hk : StationSet.has roster k = true)
    (hh : StationSet.has (t.zone z).holders k = false) (hw : (t.zone z).waits k = false)
    (hg : (t.zone z).grantsAtOnce m = false) (hf : t.free ≠ 0) :
    t.claim roster k z m =
      ({ t with free := t.free - 1 } : Ztu).editZone roster z
        { t.zone z with queue := (t.zone z).queue ++ [{ station := k, mode := m }] } .queued := by
  simp [Ztu.claim, hk, hh, hw, hg, hf]

end NotPresent

/-! ### Advances that grant nothing (R7) -/

theorem ZoneRec.grantsAtOnce_iff (r : ZoneRec) (m : Mode) :
    r.grantsAtOnce m = true ↔ r.state = .free ∨ (r.state = .shared ∧ r.queue = [] ∧ m = .shared) := by
  simp [ZoneRec.grantsAtOnce, and_assoc]

/-- A record whose advance grants nothing is written as it stands. -/
theorem Ztu.editZone_of_advance_eq {r : ZoneRec} (h : r.advance = (r, [])) (t : Ztu) (roster : StationSet) (z : Zone)
    (o : EditOutcome) :
    t.editZone roster z r o =
      { ztu := t.setZone z r, roster := roster, outcome := o, foreign := false, grants := [], removals := [],
        left := 0 } := by
  have ha : (t.setZone z r).advance z = (t.setZone z r, []) := by
    have hz : (t.setZone z r).zone z = r := by simp
    have again : (t.setZone z r).setZone z r = t.setZone z r := by
      simpa only [hz] using (t.setZone z r).setZone_self z
    rw [Ztu.advance, hz, h, again]
    rfl
  rw [Ztu.editZone, ha]

/-- A zone granted at once has a holder and no queue, so nothing is left to grant. -/
theorem ZoneRec.advance_of_grantsAtOnce {r : ZoneRec} {m : Mode} (hr : r.stateLaw) (hg : r.grantsAtOnce m = true)
    (k : Station) :
    ({ r with state := m.zoneState, holders := StationSet.add r.holders k } : ZoneRec).advance =
      ({ r with state := m.zoneState, holders := StationSet.add r.holders k }, []) := by
  have hq : r.queue = [] := by
    rcases (r.grantsAtOnce_iff m).1 hg with hfree | ⟨-, hq, -⟩
    · rw [ZoneRec.stateLaw, hfree] at hr
      exact hr.2
    · exact hq
  have held : StationSet.add r.holders k ≠ 0 := StationSet.ne_zero_of_has (k := k) (by simp)
  refine ZoneRec.advance_of_blocked (fun h => absurd h held) fun w hw => ?_
  simp [hq] at hw

/-- A mode that is not granted at once meets a held zone whose queue, with the new entry at its tail, begins with an
entry that must wait. -/
theorem ZoneRec.advance_of_queued {r : ZoneRec} {m : Mode} (hr : r.stateLaw) (hg : r.grantsAtOnce m = false)
    (k : Station) :
    ({ r with queue := r.queue ++ [{ station := k, mode := m }] } : ZoneRec).advance =
      ({ r with queue := r.queue ++ [{ station := k, mode := m }] }, []) := by
  obtain ⟨st, h, q⟩ := r
  cases st with
  | free => simp [ZoneRec.grantsAtOnce] at hg
  | exclusive =>
    obtain ⟨j, rfl⟩ := hr
    have held : StationSet.one j ≠ 0 := StationSet.ne_zero_of_has (k := j) (by simp)
    exact ZoneRec.advance_of_blocked (fun h => absurd h held) fun _ _ => rfl
  | shared =>
    obtain ⟨held, hq⟩ := hr
    refine ZoneRec.advance_of_blocked (fun h => absurd h held) fun w hw => ?_
    have hm : w.mode = .exclusive := by
      cases q with
      | nil =>
        obtain rfl : { station := k, mode := m } = w := by simpa using hw
        cases m with
        | exclusive => rfl
        | shared => simp [ZoneRec.grantsAtOnce] at hg
      | cons v rest =>
        obtain rfl : v = w := by simpa using hw
        exact hq
    simp [hm, compatible]

/-- Settles O50: the decision of R13 and R14 branch by branch; by the law of R2 the advance after it grants nothing. -/
theorem claimDecision : Obligations.ClaimDecision := by
  unfold Obligations.ClaimDecision
  intro t roster k self z m r
  constructor
  · intro hk
    rw [Ztu.apply_claim, Ztu.claim_of_stranger hk, hk]
    rfl
  intro hk hr hh hq direct
  have hw : r.waits k = false := (ZoneRec.waits_eq_false_iff r k).2 hq
  have hdirect : r.grantsAtOnce m = true ↔ direct := r.grantsAtOnce_iff m
  have hqueued (hd : ¬ direct) : r.grantsAtOnce m = false := Bool.eq_false_iff.2 fun hg => hd (hdirect.1 hg)
  refine ⟨fun hd => ?_, fun hd hf => ?_, fun hd hf => ?_⟩
  · have hg := hdirect.2 hd
    rw [Ztu.apply_claim, Ztu.claim_of_grantsAtOnce hk hh hw hg,
      Ztu.editZone_of_advance_eq (ZoneRec.advance_of_grantsAtOnce hr hg k), hk]
    rfl
  · have hg := hqueued hd
    rw [Ztu.apply_claim, Ztu.claim_of_queued hk hh hw hg hf,
      Ztu.editZone_of_advance_eq (ZoneRec.advance_of_queued hr hg k), hk]
    rfl
  · rw [Ztu.apply_claim, Ztu.claim_of_emptyPool hk hh hw (hqueued hd) hf, hk]
    rfl

end Machine

end Sys2Proof
end

section
/-! SUPPORT. The fields of the two packed bytes, the options byte and the waiting entry byte; then the statement O42, put
together from them and the code tables. -/

namespace Sys2Proof.Machine

/-! ### The options byte (Table 9.4-3) -/

theorem getLsbD_optionsByte (rejoin peers : Bool) (i : Nat) :
    (optionsByte rejoin peers).getLsbD i = if i = 0 then rejoin else if i = 1 then peers else false := by
  have outer : (optionsByte rejoin peers).getLsbD i =
      if i < 2 then (BitVec.ofBool peers ++ BitVec.ofBool rejoin).getLsbD i else (0#6).getLsbD (i - 2) :=
    BitVec.getLsbD_append
  rw [outer, BitVec.getLsbD_append]
  rcases i with _ | _ | i
  · simp
  · simp
  · simp

/-! ### The waiting entry byte (Table 9.3-2) -/

@[simp] theorem Waiting.extractLsb'_byte_station (w : Waiting) :
    w.byte.extractLsb' 4 4 = BitVec.ofNat 4 w.station.val :=
  BitVec.extractLsb'_append_eq_left

@[simp] theorem Waiting.extractLsb'_byte_reserved (w : Waiting) : w.byte.extractLsb' 1 3 = 0 :=
  calc w.byte.extractLsb' 1 3 = (0#3 ++ BitVec.ofBool w.mode.bit).extractLsb' 1 3 :=
      BitVec.extractLsb'_append_eq_of_add_le (by decide)
    _ = 0 := BitVec.extractLsb'_append_eq_left

@[simp] theorem Waiting.getLsbD_byte_zero (w : Waiting) : w.byte.getLsbD 0 = w.mode.bit :=
  calc w.byte.getLsbD 0 = (0#3 ++ BitVec.ofBool w.mode.bit).getLsbD 0 := BitVec.getLsbD_append
    _ = (BitVec.ofBool w.mode.bit).getLsbD 0 := BitVec.getLsbD_append
    _ = w.mode.bit := by simp

/-! ### The statement -/

/-- Settles O42: each code table is read off its definition, entry by entry; the two packed bytes, field by field. -/
theorem codeTables : Obligations.CodeTables := by
  unfold Obligations.CodeTables
  refine ⟨rfl, rfl, fun _ _ => rfl, rfl, fun _ => rfl, fun rejoin peers i => getLsbD_optionsByte rejoin peers i.val, rfl,
    rfl, rfl, rfl, rfl, fun w => ⟨w.extractLsb'_byte_station, w.extractLsb'_byte_reserved, ?_⟩⟩
  rw [w.getLsbD_byte_zero]
  cases w.mode <;> rfl

end Sys2Proof.Machine
end

section
/-! SUPPORT. What every edit and the removal procedure keep: the pool's sum of R4 and the laws of R1, R2 and R11 in each
record; and what the table of an accepted image is. Then the statements O48 and O51 to O53. -/

namespace Sys2Proof.Machine

/-! ### Before the advance -/

/-- The state that an advance starts from agrees with the holders: what R2 asks of a record apart from its queue. -/
def holdersAgree (st : ZoneState) (holders : StationSet) : Prop :=
  match st with
  | .free => holders = 0
  | .exclusive => ∃ k : Station, holders = StationSet.one k
  | .shared => holders ≠ 0

/-- The state from which the advance of a record starts (R6, step 1). -/
def ZoneRec.startState (r : ZoneRec) : ZoneState := if r.holders = 0 then .free else r.state

theorem ZoneRec.advance_eq (r : ZoneRec) : r.advance = advanceQueue r.startState r.holders r.queue := rfl

/-- The laws of R1, R2 and R11 in one record. -/
def ZoneRec.laws (roster : StationSet) (r : ZoneRec) : Prop := r.apart ∧ r.stateLaw ∧ r.known roster

theorem ZoneRec.laws_free (roster : StationSet) : ZoneRec.laws roster ZoneRec.reset :=
  ⟨⟨by simp [ZoneRec.reset], by simp [ZoneRec.reset]⟩, ⟨rfl, rfl⟩, by simp [ZoneRec.reset], by simp [ZoneRec.reset]⟩

theorem ZoneRec.laws.mono {roster roster' : StationSet} {r : ZoneRec} (h : r.laws roster)
    (hr : ∀ k, StationSet.has roster k = true → StationSet.has roster' k = true) : r.laws roster' := by
  obtain ⟨ha, hs, hk, hq⟩ := h
  exact ⟨ha, hs, fun k hh => hr k (hk k hh), fun w hw => hr _ (hq w hw)⟩

/-- A queue kept in order, with holders that agree with the state and are apart from it, advances to a lawful record. -/
theorem advanceQueue_laws {roster : StationSet} (q : List Waiting) (st : ZoneState) (h : StationSet)
    (hs : holdersAgree st h) (hn : (q.map fun w => w.station).Nodup)
    (ha : ∀ w ∈ q, StationSet.has h w.station = false)
    (hk : ∀ k, StationSet.has h k = true → StationSet.has roster k = true)
    (hq : ∀ w ∈ q, StationSet.has roster w.station = true) : (advanceQueue st h q).1.laws roster := by
  induction q generalizing st h with
  | nil => exact ⟨⟨hn, ha⟩, by cases st <;> simp_all [holdersAgree, ZoneRec.stateLaw, advanceQueue], hk, hq⟩
  | cons w rest ih =>
    unfold advanceQueue
    split
    · rename_i hc
      obtain ⟨hw, hrest⟩ := List.nodup_cons.1 hn
      have held : StationSet.add h w.station ≠ 0 := StationSet.ne_zero_of_has (k := w.station) (by simp)
      refine ih _ _ ?_ hrest (fun v hv => ?_) (fun k hk' => ?_) fun v hv => hq v (List.mem_cons_of_mem _ hv)
      · cases hm : w.mode with
        | shared => exact held
        | exclusive =>
          cases st with
          | free =>
            obtain rfl : h = 0 := hs
            exact ⟨w.station, StationSet.ext_has fun k => by simp⟩
          | exclusive => simp [compatible] at hc
          | shared => simp [compatible, hm] at hc
      · have hne : w.station ≠ v.station := fun e =>
        hw (List.mem_map.2 ⟨v, hv, e.symm⟩)
        simp [ha v (List.mem_cons_of_mem _ hv), hne]
      · rw [StationSet.has_add, Bool.or_eq_true, decide_eq_true_iff] at hk'
        rcases hk' with hk' | rfl
        · exact hk k hk'
        · exact hq w List.mem_cons_self
    · rename_i hc
      refine ⟨⟨hn, ha⟩, ?_, hk, hq⟩
      cases st with
      | free => simp [compatible] at hc
      | exclusive => exact hs
      | shared =>
        refine ⟨hs, ?_⟩
        cases hm : w.mode with
        | exclusive => simp only [hm]
        | shared => simp [compatible, hm] at hc

/-- The law of R2 gives the state an advance starts from, also once holders have been taken out (R15, R20). -/
theorem ZoneRec.stateLaw.startState {r : ZoneRec} (hr : r.stateLaw) (e : StationSet) (q : List Waiting) :
    holdersAgree
      ({ r with holders := StationSet.minus r.holders e, queue := q } : ZoneRec).startState
      (StationSet.minus r.holders e) := by
  unfold ZoneRec.startState
  by_cases h0 : StationSet.minus r.holders e = 0
  · rw [if_pos h0]; exact h0
  rw [if_neg h0]
  obtain ⟨st, h, q'⟩ := r
  cases st with
  | free =>
    obtain ⟨rfl, -⟩ := hr
    exact absurd ((StationSet.eq_zero_iff _).2 fun k => by simp) h0
  | exclusive =>
    obtain ⟨k, rfl⟩ := hr
    refine ⟨k, StationSet.ext_has fun j => ?_⟩
    have hk : StationSet.has e k = false := by
      by_contra hk
      refine h0 ((StationSet.eq_zero_iff _).2 fun j => ?_)
      by_cases hj : k = j
      · subst hj; simp_all
      · simp [hj]
    by_cases hj : k = j
    · subst hj; simp [hk]
    · simp [hj]
  | shared => exact h0

/-- Stations taken out of a lawful record, as holders and as waiting: the advance after it leaves a lawful one. -/
theorem ZoneRec.laws.advance_of_taken {roster roster' : StationSet} {r : ZoneRec} (hr : r.laws roster) (e : StationSet)
    {q : List Waiting} (hq : q.Sublist r.queue)
    (hh : ∀ k, StationSet.has r.holders k = true → StationSet.has e k = false → StationSet.has roster' k = true)
    (hw : ∀ w ∈ q, StationSet.has roster' w.station = true) :
    ({ r with holders := StationSet.minus r.holders e, queue := q } : ZoneRec).advance.1.laws roster' := by
  obtain ⟨⟨hn, ha⟩, hs, -, -⟩ := hr
  refine advanceQueue_laws q _ _ (hs.startState e q) (hn.sublist (hq.map _)) (fun w h => ?_) (fun k hk => ?_) hw
  · simp [ha w (hq.subset h)]
  · simp only [StationSet.has_minus, Bool.and_eq_true, Bool.not_eq_true'] at hk
    exact hh k hk.1 hk.2

/-! ### The pool's sum (R4) -/

/-- The sum of R4: the entries in use and the free count. -/
def Ztu.total (t : Ztu) : Nat := t.inUse + t.free

theorem Ztu.total_advance (t : Ztu) (z : Zone) : (t.advance z).1.total = t.total := t.advance_sum z

theorem Ztu.total_advanceEach (t : Ztu) (zs : List Zone) : (t.advanceEach zs).1.total = t.total := by
  induction zs generalizing t with
  | nil => rfl
  | cons z zs ih => exact (ih _).trans (t.total_advance z)

/-- What an edit of one record changes of the sum is what it changes of the queue's length and of the free count. -/
theorem Ztu.total_editZone (t : Ztu) (roster : StationSet) (z : Zone) (r : ZoneRec) (o : EditOutcome) :
    (t.editZone roster z r o).ztu.total + (t.zone z).queue.length = t.total + r.queue.length := by
  have h := t.inUse_setZone z r
  have e : (t.editZone roster z r o).ztu.total = (t.setZone z r).total := (t.setZone z r).total_advance z
  rw [e, Ztu.total, Ztu.total, Ztu.free_setZone]
  omega

theorem length_filter_not_add (p : Waiting → Bool) (q : List Waiting) :
    (q.filter fun w => !p w).length + (q.filter p).length = q.length := by
  have := List.length_eq_length_filter_add (l := q) p
  omega

theorem ZoneRec.dropWaiting_length (e : StationSet) (r : ZoneRec) :
    (r.dropWaiting e).queue.length + r.waitingIn e = r.queue.length :=
  length_filter_not_add (fun w => StationSet.has e w.station) r.queue

theorem Ztu.total_claim (t : Ztu) (roster : StationSet) (k : Station) (z : Zone) (m : Mode) :
    (t.claim roster k z m).ztu.total = t.total := by
  unfold Ztu.claim
  simp only
  split_ifs with h1 h2 h3 h4 h5
  · rfl
  · rfl
  · rfl
  · have := t.total_editZone roster z
      { t.zone z with state := m.zoneState, holders := StationSet.add (t.zone z).holders k } .granted
    simp only at this
    omega
  · rfl
  · have := ({ t with free := t.free - 1 } : Ztu).total_editZone roster z
      { t.zone z with queue := (t.zone z).queue ++ [{ station := k, mode := m }] } .queued
    have e : ({ t with free := t.free - 1 } : Ztu).total + 1 = t.total := by
      change t.inUse + (t.free - 1) + 1 = t.inUse + t.free
      omega
    have ez : ({ t with free := t.free - 1 } : Ztu).zone z = t.zone z := rfl
    simp only [ez, List.length_append, List.length_singleton] at this
    omega

theorem Ztu.total_release (t : Ztu) (roster : StationSet) (k : Station) (z : Zone) :
    (t.release roster k z).ztu.total = t.total := by
  unfold Ztu.release
  simp only
  split_ifs with h1 h2
  · have := t.total_editZone roster z { t.zone z with holders := StationSet.del (t.zone z).holders k } .released
    simp only at this
    omega
  · have h := (t.giveBack ((t.zone z).waitingIn (StationSet.one k))).total_editZone roster z
      ((t.zone z).dropWaiting (StationSet.one k)) .withdrawn
    have hl := (t.zone z).dropWaiting_length (StationSet.one k)
    have e : (t.giveBack ((t.zone z).waitingIn (StationSet.one k))).total =
        t.total + (t.zone z).waitingIn (StationSet.one k) := (Nat.add_assoc _ _ _).symm
    rw [Ztu.zone_giveBack] at h
    omega
  · rfl

theorem Ztu.total_removeWaiting (t : Ztu) (e : StationSet) : (t.removeWaiting e).total = t.total := by
  have key : ∀ l : List Zone,
      (l.map fun z => ((t.removeWaiting e).zone z).queue.length).sum + (l.map fun z => (t.zone z).waitingIn e).sum =
        (l.map fun z => (t.zone z).queue.length).sum := by
    intro l
    induction l with
    | nil => rfl
    | cons z l ih =>
      have := (t.zone z).dropWaiting_length e
      simp only [List.map_cons, List.sum_cons, Ztu.removeWaiting_zone] at ih ⊢
      omega
  have h := key (List.finRange 64)
  have hf : (t.removeWaiting e).free = t.free + ((List.finRange 64).map fun z => (t.zone z).waitingIn e).sum := rfl
  simp only [Ztu.total, Ztu.inUse, hf]
  omega

theorem Ztu.total_removeHolders (t : Ztu) (e : StationSet) : (t.removeHolders e).total = t.total := by
  simp only [Ztu.total, Ztu.inUse, Ztu.removeHolders_zone, Ztu.removeHolders_free]
  rfl

theorem Ztu.remove_ztu (t : Ztu) (roster e : StationSet) (own : Station) :
    (t.remove roster e own).ztu = (((t.removeWaiting e).removeHolders e).advanceEach (List.finRange 64)).1 := by
  simp only [Ztu.remove]

theorem Ztu.remove_roster (t : Ztu) (roster e : StationSet) (own : Station) :
    (t.remove roster e own).roster = StationSet.minus roster e := by
  simp only [Ztu.remove]

theorem Ztu.total_remove (t : Ztu) (roster e : StationSet) (own : Station) :
    (t.remove roster e own).ztu.total = t.total :=
  calc (t.remove roster e own).ztu.total = ((t.removeWaiting e).removeHolders e).total := by
        rw [Ztu.remove_ztu, Ztu.total_advanceEach]
    _ = (t.removeWaiting e).total := Ztu.total_removeHolders _ _
    _ = t.total := t.total_removeWaiting e

/-- No edit changes the sum of R4. -/
theorem Ztu.total_apply (t : Ztu) (roster : StationSet) (k own : Station) (op : OrderOp) :
    (t.apply roster k own op).ztu.total = t.total := by
  cases op with
  | claim z m => exact t.total_claim roster k z m
  | release z => exact t.total_release roster k z
  | touch => rfl
  | leave =>
    simp only [Ztu.apply]
    exact t.total_remove roster _ own
  | join =>
    simp only [Ztu.apply, Ztu.join]
    split
    · exact t.total_remove roster _ own
    · rfl

theorem Ztu.total_reset : Ztu.reset.total = 96 := by
  simp only [Ztu.total, Ztu.inUse, Ztu.zone_reset, ZoneRec.reset, List.length_nil, List.map_const', Ztu.free_reset,
    List.sum_replicate, smul_zero, Nat.zero_add]

/-! ### The laws of the records -/

/-- The laws of R1, R2 and R11 in every record of a table. -/
def Ztu.laws (roster : StationSet) (t : Ztu) : Prop := ∀ z : Zone, (t.zone z).laws roster

theorem Ztu.laws_reset (roster : StationSet) : Ztu.reset.laws roster := fun z => by
  rw [Ztu.zone_reset]; exact ZoneRec.laws_free roster

theorem Ztu.editZone_zone (t : Ztu) (roster : StationSet) (z y : Zone) (r : ZoneRec) (o : EditOutcome) :
    (t.editZone roster z r o).ztu.zone y = if z = y then r.advance.1 else t.zone y := by
  simp only [Ztu.editZone, Ztu.advance_zone, Ztu.zone_setZone, if_true]
  split <;> rfl

theorem Ztu.laws.editZone {t : Ztu} {roster : StationSet} (h : t.laws roster) {z : Zone} {r : ZoneRec}
    (hr : r.advance.1.laws roster) (o : EditOutcome) : (t.editZone roster z r o).ztu.laws roster := fun y => by
  rw [Ztu.editZone_zone]
  split
  · exact hr
  · exact h y

theorem Ztu.laws.claim {t : Ztu} {roster : StationSet} (h : t.laws roster) (k : Station) (z : Zone) (m : Mode) :
    (t.claim roster k z m).ztu.laws roster := by
  have hz := h z
  obtain ⟨⟨hn, ha⟩, hs, hk, hq⟩ := hz
  unfold Ztu.claim
  simp only
  split_ifs with h1 h2 h3 h4 h5
  · exact h
  · exact h
  · exact h
  · have h1 : StationSet.has roster k = true := by simpa using h1
    refine h.editZone ?_ _
    rw [ZoneRec.advance_of_grantsAtOnce hs h4]
    have queue : (t.zone z).queue = [] := by
      rcases ((t.zone z).grantsAtOnce_iff m).1 h4 with hf | ⟨-, hq, -⟩
      · rw [ZoneRec.stateLaw, hf] at hs; exact hs.2
      · exact hq
    refine ⟨⟨hn, by simp [queue]⟩, ?_, fun j hj => ?_, hq⟩
    · have held : StationSet.add (t.zone z).holders k ≠ 0 := StationSet.ne_zero_of_has (k := k) (by simp)
      cases m with
      | shared => exact ⟨held, by simp [queue]⟩
      | exclusive =>
        rcases ((t.zone z).grantsAtOnce_iff _).1 h4 with hf | ⟨-, -, hm⟩
        · rw [ZoneRec.stateLaw, hf] at hs
          exact ⟨k, StationSet.ext_has fun j => by simp [hs.1]⟩
        · cases hm
    · simp only [StationSet.has_add, Bool.or_eq_true, decide_eq_true_iff] at hj
      rcases hj with hj | rfl
      · exact hk j hj
      · exact h1
  · exact h
  · have h1 : StationSet.has roster k = true := by simpa using h1
    have hw : ∀ w ∈ (t.zone z).queue, w.station ≠ k := (ZoneRec.waits_eq_false_iff _ k).1 (by simpa using h3)
    have h4 : (t.zone z).grantsAtOnce m = false := by simpa using h4
    refine Ztu.laws.editZone (t := { t with free := t.free - 1 }) h ?_ _
    rw [ZoneRec.advance_eq]
    refine advanceQueue_laws _ _ _ ?_ ?_ (fun w hm => ?_) hk fun w hm => ?_
    · have := hs.startState 0 ((t.zone z).queue ++ [{ station := k, mode := m }])
      rwa [show StationSet.minus (t.zone z).holders 0 = (t.zone z).holders from StationSet.ext_has fun j => by simp]
        at this
    · rw [List.map_append, List.map_singleton]
      refine List.nodup_append.2 ⟨hn, by simp, ?_⟩
      rintro _ ha' _ hb e
      obtain ⟨w, hm, rfl⟩ := List.mem_map.1 ha'
      exact hw w hm (e.trans (by simpa using hb))
    · rcases List.mem_append.1 hm with hm | hm
      · exact ha w hm
      · rw [List.mem_singleton.1 hm]; simpa using h2
    · rcases List.mem_append.1 hm with hm | hm
      · exact hq w hm
      · rw [List.mem_singleton.1 hm]; exact h1

theorem Ztu.laws.release {t : Ztu} {roster : StationSet} (h : t.laws roster) (k : Station) (z : Zone) :
    (t.release roster k z).ztu.laws roster := by
  have hz := h z
  obtain ⟨-, -, hk, hq⟩ := id hz
  unfold Ztu.release
  simp only
  split_ifs with h1 h2
  · exact h.editZone (hz.advance_of_taken (StationSet.one k) (List.Sublist.refl _) (fun j hj _ => hk j hj) hq) _
  · refine Ztu.laws.editZone (t := t.giveBack _) h ?_ _
    have := hz.advance_of_taken (roster' := roster) 0 (q := ((t.zone z).dropWaiting (StationSet.one k)).queue)
      List.filter_sublist (fun j hj _ => hk j hj) fun w hw => hq w (List.mem_of_mem_filter hw)
    rwa [show StationSet.minus (t.zone z).holders 0 = (t.zone z).holders from StationSet.ext_has fun j => by simp]
      at this
  · exact h

/-- A removal leaves a lawful table, whose holders and waiting stations are in the roster less the set. -/
theorem Ztu.laws.remove {t : Ztu} {roster : StationSet} (h : t.laws roster) (e : StationSet) (own : Station) :
    (t.remove roster e own).ztu.laws (StationSet.minus roster e) := fun z => by
  obtain ⟨-, -, hk, hq⟩ := id (h z)
  rw [Ztu.remove_zone]
  refine (h z).advance_of_taken e List.filter_sublist (fun j hj he => by simp [hk j hj, he]) fun w hw => ?_
  obtain ⟨hm, hw⟩ := List.mem_filter.1 hw
  simpa [hq w hm] using hw

/-- Every edit leaves a lawful table with the roster it reports. -/
theorem Ztu.laws.apply {t : Ztu} {roster : StationSet} (h : t.laws roster) (k own : Station) (op : OrderOp) :
    (t.apply roster k own op).ztu.laws (t.apply roster k own op).roster := by
  cases op with
  | claim z m =>
    have := h.claim k z m
    simpa only [Ztu.apply, (t.claim_rest roster k z m).1] using this
  | release z =>
    have := h.release k z
    simpa only [Ztu.apply, (t.release_rest roster k z).1] using this
  | touch => exact h
  | leave =>
    simp only [Ztu.apply, Ztu.remove_roster]
    exact h.remove _ own
  | join =>
    simp only [Ztu.apply, Ztu.join]
    split
    · exact fun z => (h.remove (StationSet.one k) own z).mono fun j hj => by
        rw [StationSet.has_add, Ztu.remove_roster, hj, Bool.true_or]
    · exact fun z => (h z).mono fun j hj => by simp [Ztu.unchanged, hj]

/-! ### The table of an accepted image (R27) -/

theorem ascending_iff (recs : List CopyRec) :
    ascending recs = true ↔ recs.Pairwise (fun a b => a.zone.toNat < b.zone.toNat) := by
  induction recs with
  | nil => simp [ascending]
  | cons a rest ih =>
    cases rest with
    | nil => simp [ascending]
    | cons b rest =>
      simp only [ascending, Bool.and_eq_true, decide_eq_true_iff, ih]
      rw [List.pairwise_cons (a := a)]
      refine and_congr_left fun hp => ⟨fun h c hc => ?_, fun h => h b List.mem_cons_self⟩
      rcases List.mem_cons.1 hc with rfl | hc
      · exact h
      · exact h.trans ((List.pairwise_cons.1 hp).1 c hc)

/-- A copy record that the install admits names a zone and is a record of it (R27). -/
theorem CopyRec.admitted_iff (roster : StationSet) (c : CopyRec) :
    c.admitted roster = true ↔
      c.zone.toNat < 64 ∧ ∃ st : ZoneState, ((c.code = 1 ∧ st = .exclusive) ∨ (c.code = 2 ∧ st = .shared)) ∧
        ({ state := st, holders := c.holders, queue := c.queue } : ZoneRec).laws roster := by
  have hz : (zoneOf c.zone).isSome = true ↔ c.zone.toNat < 64 := by
    unfold zoneOf; split <;> simp_all
  have hlaws : ∀ r : ZoneRec, (r.lawful && r.inRoster roster) = true ↔ r.laws roster := fun r => by
    rw [Bool.and_eq_true, ZoneRec.inRoster_iff, ZoneRec.lawful, Bool.and_eq_true, ZoneRec.disjoint_iff,
      ZoneRec.settled_iff, and_assoc]
    rfl
  rw [CopyRec.admitted, Bool.and_eq_true, hz]
  refine and_congr_right fun _ => ?_
  unfold CopyRec.record
  by_cases h1 : c.code = 1
  · rw [if_pos h1]
    simp [h1, hlaws]
  · rw [if_neg h1]
    by_cases h2 : c.code = 2
    · rw [if_pos h2]
      simp [h2, hlaws]
    · rw [if_neg h2]
      refine iff_of_false Bool.false_ne_true ?_
      rintro ⟨st, ⟨h, -⟩ | ⟨h, -⟩, -⟩
      · exact h1 h
      · exact h2 h

/-- The record that an admitted copy record describes. -/
theorem CopyRec.record_of_admitted {roster : StationSet} {c : CopyRec} (h : c.admitted roster = true) :
    ∃ z : Zone, zoneOf c.zone = some z ∧ z.val = c.zone.toNat ∧
      c.record = some { state := if c.code = 1 then .exclusive else .shared, holders := c.holders, queue := c.queue } ∧
      ({ state := if c.code = 1 then .exclusive else .shared, holders := c.holders, queue := c.queue } :
        ZoneRec).laws roster := by
  obtain ⟨hz, st, hst, hl⟩ := (c.admitted_iff roster).1 h
  refine ⟨⟨c.zone.toNat, hz⟩, zoneOf_eq_some.2 rfl, rfl, ?_, ?_⟩
  · rcases hst with ⟨h1, -⟩ | ⟨h2, -⟩
    · simp [CopyRec.record, h1]
    · simp [CopyRec.record, h2]
  · rcases hst with ⟨h1, rfl⟩ | ⟨h2, rfl⟩
    · rwa [if_pos h1]
    · rwa [if_neg (by simp [h2])]

/-- Writing an image over a table changes no zone that the image does not name. -/
theorem Ztu.putRecs_zone_of_not_named (recs : List CopyRec) (t : Ztu) (z : Zone)
    (h : ∀ c ∈ recs, c.zone.toNat ≠ z.val) : (t.putRecs recs).zone z = t.zone z := by
  induction recs generalizing t with
  | nil => rfl
  | cons c cs ih =>
    have hcs := fun c' hc' => h c' (List.mem_cons_of_mem _ hc')
    unfold Ztu.putRecs
    split
    · rename_i y r hy _
      rw [ih _ hcs, Ztu.zone_setZone, if_neg]
      rintro rfl
      exact h c List.mem_cons_self (zoneOf_eq_some.1 hy).symm
    · exact ih t hcs

theorem Ztu.putRecs_cons {roster : StationSet} {c : CopyRec} (hc : c.admitted roster = true) {z : Zone}
    (hz : z.val = c.zone.toNat) (t : Ztu) (cs : List CopyRec) :
    t.putRecs (c :: cs) =
      (t.setZone z
        { state := if c.code = 1 then .exclusive else .shared, holders := c.holders, queue := c.queue }).putRecs cs := by
  obtain ⟨y, hy, hy', hr, -⟩ := CopyRec.record_of_admitted hc
  obtain rfl : y = z := Fin.ext (hy'.trans hz.symm)
  simp [Ztu.putRecs, hy, hr]

/-- Writing an ascending image over a table: each zone named takes its record. -/
theorem Ztu.putRecs_zone_of_named {roster : StationSet} (recs : List CopyRec) (t : Ztu)
    (hp : recs.Pairwise (fun a b => a.zone.toNat < b.zone.toNat)) (ha : ∀ c ∈ recs, c.admitted roster = true)
    {c : CopyRec} (hc : c ∈ recs) {z : Zone} (hz : z.val = c.zone.toNat) :
    (t.putRecs recs).zone z =
      { state := if c.code = 1 then .exclusive else .shared, holders := c.holders, queue := c.queue } := by
  induction recs generalizing t with
  | nil => cases hc
  | cons b cs ih =>
    obtain ⟨hb, hcs⟩ := List.pairwise_cons.1 hp
    have ha' := fun c' hc' => ha c' (List.mem_cons_of_mem _ hc')
    obtain ⟨y, -, hy, -, -⟩ := CopyRec.record_of_admitted (ha b List.mem_cons_self)
    rw [Ztu.putRecs_cons (ha b List.mem_cons_self) hy]
    rcases List.mem_cons.1 hc with rfl | hc
    · obtain rfl : y = z := Fin.ext (hy.trans hz.symm)
      rw [Ztu.putRecs_zone_of_not_named _ _ _ fun c' hc' => ?_, Ztu.zone_setZone, if_pos rfl]
      have := hb c' hc'
      omega
    · exact ih _ hcs ha' hc

/-- The entries in use after an ascending image is written where its zones were FREE. -/
theorem Ztu.inUse_putRecs {roster : StationSet} (recs : List CopyRec) (t : Ztu)
    (hp : recs.Pairwise (fun a b => a.zone.toNat < b.zone.toNat)) (ha : ∀ c ∈ recs, c.admitted roster = true)
    (hf : ∀ c ∈ recs, ∀ z : Zone, z.val = c.zone.toNat → (t.zone z).queue = []) :
    (t.putRecs recs).inUse = t.inUse + imageWaiting recs := by
  induction recs generalizing t with
  | nil => simp only [Ztu.putRecs, imageWaiting, List.map_nil, List.sum_nil, Nat.add_zero]
  | cons b cs ih =>
    obtain ⟨hb, hcs⟩ := List.pairwise_cons.1 hp
    have ha' := fun c' hc' => ha c' (List.mem_cons_of_mem _ hc')
    obtain ⟨y, -, hy, -, -⟩ := CopyRec.record_of_admitted (ha b List.mem_cons_self)
    rw [Ztu.putRecs_cons (ha b List.mem_cons_self) hy, ih _ hcs ha' fun c' hc' z hz => ?_]
    · have h := t.inUse_setZone y
        { state := if b.code = 1 then .exclusive else .shared, holders := b.holders, queue := b.queue }
      rw [hf b List.mem_cons_self y hy] at h
      simp only [imageWaiting, List.map_cons, List.sum_cons, List.length_nil] at h ⊢
      omega
    · rw [Ztu.zone_setZone, if_neg]
      · exact hf c' (List.mem_cons_of_mem _ hc') z hz
      · rintro rfl
        have := hb c' hc'
        omega

theorem imageAccepted_iff (roster : StationSet) (occupied : Nat) (recs : List CopyRec) :
    imageAccepted roster occupied recs = true ↔
      recs.Pairwise (fun a b => a.zone.toNat < b.zone.toNat) ∧ recs.length = occupied ∧
        (∀ c ∈ recs, c.admitted roster = true) ∧ imageWaiting recs ≤ 96 := by
  simp [imageAccepted, ascending_iff, and_assoc]

/-- The table of an accepted image holds the records of the image, and is FREE elsewhere (R27). -/
theorem Ztu.ofImage_zone_of_named {roster : StationSet} {occupied : Nat} {recs : List CopyRec}
    (h : imageAccepted roster occupied recs = true) {c : CopyRec} (hc : c ∈ recs) {z : Zone} (hz : z.val = c.zone.toNat) :
    (Ztu.ofImage recs).zone z =
      { state := if c.code = 1 then .exclusive else .shared, holders := c.holders, queue := c.queue } := by
  obtain ⟨hp, -, ha, -⟩ := (imageAccepted_iff _ _ _).1 h
  exact Ztu.putRecs_zone_of_named recs Ztu.reset hp ha hc hz

theorem Ztu.ofImage_zone_of_not_named {recs : List CopyRec} {z : Zone} (h : ∀ c ∈ recs, c.zone.toNat ≠ z.val) :
    (Ztu.ofImage recs).zone z = ZoneRec.reset :=
  (Ztu.putRecs_zone_of_not_named recs Ztu.reset z h).trans (Ztu.zone_reset z)

theorem Ztu.total_ofImage {roster : StationSet} {occupied : Nat} {recs : List CopyRec}
    (h : imageAccepted roster occupied recs = true) : (Ztu.ofImage recs).total = 96 := by
  obtain ⟨hp, -, ha, hw⟩ := (imageAccepted_iff _ _ _).1 h
  have hi : (Ztu.ofImage recs).inUse = Ztu.reset.inUse + imageWaiting recs :=
    Ztu.inUse_putRecs recs Ztu.reset hp ha fun _ _ z _ => by rw [Ztu.zone_reset]; rfl
  have h0 : Ztu.reset.inUse = 0 := Nat.add_right_cancel (m := 96) Ztu.total_reset
  have hf : (Ztu.ofImage recs).free = 96 - imageWaiting recs := rfl
  rw [Ztu.total, hi, h0, hf]
  omega

theorem Ztu.laws_ofImage {roster : StationSet} {occupied : Nat} {recs : List CopyRec}
    (h : imageAccepted roster occupied recs = true) : (Ztu.ofImage recs).laws roster := fun z => by
  by_cases hz : ∃ c ∈ recs, c.zone.toNat = z.val
  · obtain ⟨c, hc, hz⟩ := hz
    obtain ⟨-, -, ha, -⟩ := (imageAccepted_iff _ _ _).1 h
    rw [Ztu.ofImage_zone_of_named h hc hz.symm]
    obtain ⟨-, -, -, -, hl⟩ := CopyRec.record_of_admitted (ha c hc)
    exact hl
  · rw [Ztu.ofImage_zone_of_not_named fun c hc e => hz ⟨c, hc, e⟩]
    exact ZoneRec.laws_free roster

end Sys2Proof.Machine
end

section
/-! SUPPORT. What the advance grants entry by entry, and what a removal makes of each zone; then the statements O48 and
O51 to O53. -/

namespace Sys2Proof.Machine

/-! ### The advance (R6) -/

theorem compatible_iff (st : ZoneState) (m : Mode) :
    compatible st m = true ↔ st = .free ∨ (st = .shared ∧ m = .shared) := by
  cases st <;> cases m <;> simp [compatible]

/-- The state after entries have been granted from the state `st`: that of the last one's mode. -/
def stateAfter (st : ZoneState) (given : List Waiting) : ZoneState :=
  (given.getLast?.map fun w => w.mode.zoneState).getD st

theorem stateAfter_cons (st : ZoneState) (w : Waiting) (given : List Waiting) :
    stateAfter st (w :: given) = stateAfter w.mode.zoneState given := by
  simp only [stateAfter, List.getLast?_cons]
  cases given.getLast? <;> rfl

/-- Each entry granted is compatible with the state that stood when it was examined. -/
theorem advanceQueue_granted_compatible (q : List Waiting) (st : ZoneState) (h : StationSet) (ahead : List Waiting)
    (w : Waiting) (behind : List Waiting) (hg : (advanceQueue st h q).2 = ahead ++ w :: behind) :
    compatible (stateAfter st ahead) w.mode = true := by
  induction q generalizing st h ahead with
  | nil => simp [advanceQueue] at hg
  | cons v rest ih =>
    unfold advanceQueue at hg
    split at hg
    · rename_i hc
      cases ahead with
      | nil =>
        obtain ⟨rfl, -⟩ := List.cons.inj hg
        exact hc
      | cons u ahead =>
        obtain ⟨rfl, hrest⟩ := List.cons.inj hg
        rw [stateAfter_cons]
        exact ih _ _ _ hrest
    · simp at hg

/-- Settles O48: the advance splits the queue, and each claim is one fact about that split. -/
theorem advanceGrantsFromTheHead : Obligations.AdvanceGrantsFromTheHead := by
  unfold Obligations.AdvanceGrantsFromTheHead
  refine ⟨compatible_iff, fun t z => ?_⟩
  obtain ⟨hsplit, hholders, hstate, hblocked⟩ :=
    advanceQueue_spec (t.zone z).startState (t.zone z).holders (t.zone z).queue
  rw [← ZoneRec.advance_eq] at hsplit hholders hstate hblocked
  refine ⟨(t.zone z).advance.2, (t.zone z).advance.1.queue, hsplit, fun ahead w behind hg => ?_, fun w hw => ?_, ?_,
    ?_, rfl, fun y hy => ?_⟩
  · exact advanceQueue_granted_compatible _ _ _ _ _ _ hg
  · have := hblocked w hw
    rwa [hstate] at this
  · rw [Ztu.advance_zone, if_pos rfl, ← hholders]
    exact congrArg (fun st => ({ (t.zone z).advance.1 with state := st } : ZoneRec)) hstate
  · rw [Ztu.advance_free]
    simp [Ztu.advance]
  · rw [Ztu.advance_zone, if_neg (Ne.symm hy)]

/-! ### RELEASE (R15, R16) -/

theorem Ztu.release_of_holder {t : Ztu} {k : Station} {z : Zone} (hh : StationSet.has (t.zone z).holders k = true)
    (roster : StationSet) :
    t.release roster k z =
      t.editZone roster z { t.zone z with holders := StationSet.del (t.zone z).holders k } .released := by
  simp [Ztu.release, hh]

theorem Ztu.release_of_waiting {t : Ztu} {k : Station} {z : Zone} (hh : StationSet.has (t.zone z).holders k = false)
    (hw : (t.zone z).waits k = true) (roster : StationSet) :
    t.release roster k z =
      (t.giveBack ((t.zone z).waitingIn (StationSet.one k))).editZone roster z
        ((t.zone z).dropWaiting (StationSet.one k)) .withdrawn := by
  simp [Ztu.release, hh, hw]

/-- A station that waits once in a queue: what is left without it, and how many entries that is. -/
theorem ZoneRec.drop_of_nodup {r : ZoneRec} (hn : (r.queue.map fun w => w.station).Nodup) {ahead behind : List Waiting}
    {w : Waiting} (hq : r.queue = ahead ++ w :: behind) :
    r.dropWaiting (StationSet.one w.station) = { r with queue := ahead ++ behind } ∧
      r.waitingIn (StationSet.one w.station) = 1 := by
  rw [hq, List.map_append, List.map_cons, List.nodup_append] at hn
  obtain ⟨-, hb, hab⟩ := hn
  have hne : ∀ v ∈ ahead ++ behind, v.station ≠ w.station := by
    intro v hv e
    rcases List.mem_append.1 hv with hv | hv
    · exact hab _ (List.mem_map_of_mem hv) _ List.mem_cons_self e
    · exact (List.nodup_cons.1 hb).1 (List.mem_map.2 ⟨v, hv, e⟩)
  have hne' : ∀ v ∈ ahead ++ behind, w.station ≠ v.station := fun v hv e => hne v hv e.symm
  have keep (l : List Waiting) (hl : ∀ v ∈ l, w.station ≠ v.station) :
      (l.filter fun v => !decide (w.station = v.station)) = l ∧ (l.filter fun v => decide (w.station = v.station)) = [] := by
    refine ⟨List.filter_eq_self.2 fun v hv => by simp [hl v hv], List.filter_eq_nil_iff.2 fun v hv => by simp [hl v hv]⟩
  obtain ⟨ha1, ha2⟩ := keep ahead fun v hv => hne' v (List.mem_append_left _ hv)
  obtain ⟨hb1, hb2⟩ := keep behind fun v hv => hne' v (List.mem_append_right _ hv)
  constructor
  · simp [ZoneRec.dropWaiting, hq, List.filter_append, ha1, hb1]
  · simp [ZoneRec.waitingIn, hq, List.filter_append, ha2, hb2]

/-- Settles O51: the two branches of R15 and R16, each the edit of one record and its advance. -/
theorem releaseGivesUpTheStanding : Obligations.ReleaseGivesUpTheStanding := by
  unfold Obligations.ReleaseGivesUpTheStanding
  rintro t roster k self z ⟨hn, ha⟩
  constructor
  · intro hh
    rw [Ztu.apply_release, Ztu.release_of_holder hh]
    rfl
  · rintro ahead behind w hq rfl
    have hmem : w ∈ (t.zone z).queue := by simp [hq]
    obtain ⟨hdrop, hcount⟩ := ZoneRec.drop_of_nodup hn hq
    rw [Ztu.apply_release, Ztu.release_of_waiting (ha w hmem) ((ZoneRec.waits_iff _ _).2 ⟨w, hmem, rfl⟩), hdrop, hcount]
    rfl

/-! ### The removal procedure (R19 to R22) -/

theorem has_foldl_add (given : List Waiting) (h : StationSet) (k : Station) :
    StationSet.has (given.foldl (fun s w => StationSet.add s w.station) h) k = true ↔
      StationSet.has h k = true ∨ ∃ w ∈ given, w.station = k := by
  induction given generalizing h with
  | nil => simp
  | cons w given ih => rw [List.foldl_cons, ih]; simp [or_assoc]

/-- The grants that the advances of a list of zones make in one zone of the list. -/
theorem Ztu.advanceEach_grants (t : Ztu) (zs : List Zone) (hz : zs.Nodup) (z : Zone) (h : z ∈ zs) :
    ((t.advanceEach zs).2.filter fun g => g.zone == z) =
      (t.zone z).advance.2.map fun w => { zone := z, entry := w } := by
  have other (t : Ztu) (y : Zone) (hy : y ≠ z) : ((t.advance y).2.filter fun g => g.zone == z) = [] :=
    List.filter_eq_nil_iff.2 fun g hg => by
      obtain ⟨w, -, rfl⟩ := List.mem_map.1 hg
      simpa using hy
  have none (zs : List Zone) (t : Ztu) (hz : z ∉ zs) : ((t.advanceEach zs).2.filter fun g => g.zone == z) = [] := by
    induction zs generalizing t with
    | nil => rfl
    | cons y zs ih =>
      simp only [List.mem_cons, not_or] at hz
      simp only [Ztu.advanceEach, List.filter_append, other _ _ (Ne.symm hz.1), ih _ hz.2, List.append_nil]
  induction zs generalizing t with
  | nil => cases h
  | cons y zs ih =>
    obtain ⟨h1, h2⟩ := List.nodup_cons.1 hz
    simp only [Ztu.advanceEach, List.filter_append]
    by_cases e : y = z
    · subst e
      rw [none _ _ h1, List.append_nil]
      exact List.filter_eq_self.2 fun g hg => by
        obtain ⟨w, -, rfl⟩ := List.mem_map.1 hg
        simp
    · have hm : z ∈ zs := by simpa [Ne.symm e] using h
      rw [other _ _ e, List.nil_append, ih _ h2 hm, Ztu.advance_zone, if_neg e]

theorem Ztu.remove_grants (t : Ztu) (roster e : StationSet) (own : Station) (z : Zone) :
    ((t.remove roster e own).grants.filter fun g => g.zone == z) =
      (((t.zone z).dropWaiting e).dropHolders e).advance.2.map fun w => { zone := z, entry := w } := by
  simp only [Ztu.remove]
  rw [Ztu.advanceEach_grants _ _ (List.nodup_finRange 64) z (List.mem_finRange z), Ztu.removeHolders_zone,
    Ztu.removeWaiting_zone]

/-- What a removal makes of one zone: the entries of other stations are granted from the head or stay, and the holders are
the other holders with those granted. -/
theorem Ztu.remove_zone_spec (t : Ztu) (roster e : StationSet) (own : Station) (z : Zone) :
    let given := (((t.zone z).dropWaiting e).dropHolders e).advance.2
    ((t.zone z).queue.filter fun w => !StationSet.has e w.station) =
        given ++ ((t.remove roster e own).ztu.zone z).queue ∧
      ∀ k, StationSet.has ((t.remove roster e own).ztu.zone z).holders k = true ↔
        (StationSet.has (t.zone z).holders k = true ∧ StationSet.has e k = false) ∨ ∃ w ∈ given, w.station = k := by
  obtain ⟨hsplit, hholders, -, -⟩ :=
    advanceQueue_spec (((t.zone z).dropWaiting e).dropHolders e).startState
      (((t.zone z).dropWaiting e).dropHolders e).holders (((t.zone z).dropWaiting e).dropHolders e).queue
  rw [← ZoneRec.advance_eq] at hsplit hholders
  rw [Ztu.remove_zone]
  refine ⟨hsplit, fun k => ?_⟩
  rw [hholders, has_foldl_add]
  simp [ZoneRec.dropHolders, ZoneRec.dropWaiting]

/-- No station of the set holds or waits after its removal. -/
theorem Ztu.remove_absent (t : Ztu) (roster : StationSet) {e : StationSet} (own : Station) (z : Zone) {k : Station}
    (hk : StationSet.has e k = true) :
    StationSet.has ((t.remove roster e own).ztu.zone z).holders k = false ∧
      ∀ w ∈ ((t.remove roster e own).ztu.zone z).queue, w.station ≠ k := by
  obtain ⟨hsplit, hholders⟩ := t.remove_zone_spec roster e own z
  have out : ∀ w ∈ (t.zone z).queue.filter (fun w => !StationSet.has e w.station), w.station ≠ k := by
    rintro w hw rfl
    simp [hk] at hw
  rw [hsplit] at out
  constructor
  · rw [Bool.eq_false_iff]
    intro h
    rcases (hholders k).1 h with ⟨-, h⟩ | ⟨w, hw, e⟩
    · simp [hk] at h
    · exact out w (List.mem_append_left _ hw) e
  · exact fun w hw => out w (List.mem_append_right _ hw)

/-- Settles O52: the law of the table and the sum by the lemmas on edits, the rest from what a removal makes of a zone. -/
theorem removalTakesTheSetOut : Obligations.RemovalTakesTheSetOut := by
  unfold Obligations.RemovalTakesTheSetOut
  intro s e ht hp
  have hroster := s.ztu.remove_roster s.tc.roster e s.self
  have hleft : (s.ztu.remove s.tc.roster e s.self).left = s.tc.roster &&& e := by simp only [Ztu.remove]
  have hsum : (s.ztu.remove s.tc.roster e s.self).ztu.total = 96 := (s.ztu.total_remove _ e _).trans hp
  have hlaws := Ztu.laws.remove (t := s.ztu) ht e s.self
  have habsent (z : Zone) (k : Station) := s.ztu.remove_absent s.tc.roster s.self z (e := e) (k := k)
  have hzone := s.ztu.remove_zone_spec s.tc.roster e s.self
  have hgrants := s.ztu.remove_grants s.tc.roster e s.self
  generalize s.ztu.remove s.tc.roster e s.self = r at *
  refine ⟨hroster, hleft, hsum, fun z => ?_⟩
  obtain ⟨ha, hs, hk⟩ := hlaws z
  obtain ⟨hsplit, hholders⟩ := hzone z
  refine ⟨ha, hs, by rwa [hroster], habsent z, _, hsplit, hgrants z, fun k he => ?_⟩
  rw [hholders]
  simp [he]

/-! ### JOIN (R24) -/

theorem Ztu.apply_join_of_stranger {roster : StationSet} {k : Station} (hk : StationSet.has roster k = false) (t : Ztu)
    (own : Station) :
    t.apply roster k own .join = { t.unchanged roster .done with roster := StationSet.add roster k } := by
  simp [Ztu.apply, Ztu.join, hk, Ztu.unchanged]

theorem Ztu.apply_join_of_member {roster : StationSet} {k : Station} (hk : StationSet.has roster k = true) (t : Ztu)
    (own : Station) :
    t.apply roster k own .join =
      { t.remove roster (StationSet.one k) own with
        roster := StationSet.add (StationSet.minus roster (StationSet.one k)) k } := by
  simp only [Ztu.apply, Ztu.join, hk, if_true, Ztu.remove_roster]

/-- Settles O53: the two cases of R24, by whether the roster holds the originator. -/
theorem joinReadmits : Obligations.JoinReadmits := by
  unfold Obligations.JoinReadmits
  intro s k ht
  cases hk : StationSet.has s.tc.roster k with
  | false =>
    rw [Ztu.apply_join_of_stranger hk]
    refine ⟨rfl, rfl, rfl, fun _ => ⟨rfl, rfl⟩, fun h => (Bool.false_ne_true h).elim, fun z => ?_⟩
    obtain ⟨-, -, known⟩ := ht z
    exact known.absent hk
  | true =>
    rw [Ztu.apply_join_of_member hk]
    have hdone : (s.ztu.remove s.tc.roster (StationSet.one k) s.self).outcome = .done := by simp only [Ztu.remove]
    have hforeign : (s.ztu.remove s.tc.roster (StationSet.one k) s.self).foreign = false := by simp only [Ztu.remove]
    have habsent (z : Zone) := s.ztu.remove_absent s.tc.roster s.self z (e := StationSet.one k) (k := k) (by simp)
    generalize s.ztu.remove s.tc.roster (StationSet.one k) s.self = r at *
    refine ⟨hdone, hforeign, StationSet.ext_has fun j => ?_,
      fun h => (Bool.false_ne_true h.symm).elim, fun _ => ⟨rfl, rfl⟩, habsent⟩
    by_cases hj : k = j
    · subst hj; simp
    · simp [hj]

end Sys2Proof.Machine
end

section
/-! SUPPORT. The laws of Safety.lean other than the drive law, through the operations of the blocks: the relation that every
operation meets, the updates that meet it at once, and the operations of Ops.lean, of the Copy Unit's source side, of the
Request Unit and of the Turn Controller. -/

namespace Sys2Proof.Machine

/-! ### The laws, each as one of its own block -/

/-- The law of R98 and R108, of the queue alone. -/
def queueLaw (q : List Request) : Prop :=
  q.length ≤ 8 ∧ (q.map fun r => r.tag).Nodup ∧ (q.filter fun r => r.onLine).length ≤ 1 ∧
    (∀ r ∈ q.dropLast, r.op ≠ .leave) ∧ ∀ r ∈ q, r.tries < 8

theorem State.requestLaw_iff (s : State) : s.requestLaw ↔ queueLaw s.ru.queue := Iff.rfl

/-- The law of R135 and R138, of the Host Port alone. -/
def Hp.noticeLaw (h : Hp) : Prop :=
  h.notices.length ≤ 32 ∧ h.overflowCount ≤ 255 ∧ (h.overflow = true ↔ h.overflowCount ≠ 0)

theorem State.noticeLaw_iff (s : State) : s.noticeLaw ↔ s.hp.noticeLaw := Iff.rfl

/-- The bounds of Table 4.1-1 for the Copy Unit of the station `self`. -/
def Cu.bounds (self : Station) (c : Cu) : Prop :=
  c.log.length ≤ 24 ∧ StationSet.has c.waiting self = false ∧ StationSet.has c.streamSet self = false

theorem State.copyLaw_iff (s : State) : s.copyLaw ↔ s.cu.bounds s.hp.station := Iff.rfl

theorem State.poolLaw_iff (s : State) : s.poolLaw ↔ s.ztu.total = 96 := Iff.rfl

theorem State.tableLaw_iff_laws (s : State) : s.tableLaw ↔ s.ztu.laws s.tc.roster := Iff.rfl

/-- What R51 asks of a station out of step. -/
def State.tableEmpty (s : State) : Prop :=
  (∀ z : Zone, s.ztu.zone z = { state := .free, holders := 0, queue := [] }) ∧ s.tc.roster = 0 ∧ s.tc.turn = 0 ∧
    s.tc.lastApplied = none ∧ s.tc.closure = none

theorem State.outOfStepLaw_iff (s : State) : s.outOfStepLaw ↔ (s.tc.state.inStep = false → s.tableEmpty) := Iff.rfl

/-- A closure record is held in step alone. -/
theorem State.outOfStepLaw.inStep_of_closure {s : State} (h : s.outOfStepLaw) {c : ClosureRecord}
    (hc : s.tc.closure = some c) : s.tc.state.inStep = true := by
  by_contra hs
  obtain ⟨-, -, -, -, hn⟩ := h (by simpa using hs)
  rw [hc] at hn
  cases hn

/-! ### What every operation keeps -/

/-- From `s` to `t` the queue of commands stays, and each of the laws of single blocks is kept. -/
structure State.KeepsBlocks (s t : State) : Prop where
  pending : t.pending = s.pending
  notices : s.noticeLaw → t.noticeLaw
  pool : s.poolLaw → t.poolLaw
  table : s.tableLaw → t.tableLaw
  requests : s.requestLaw → t.requestLaw
  copy : s.copyLaw → t.copyLaw

/-- The same with the law of R51, which ties the station state to the table and the records. -/
structure State.Keeps (s t : State) : Prop extends s.KeepsBlocks t where
  outOfStep : s.outOfStepLaw → t.outOfStepLaw

theorem State.KeepsBlocks.refl (s : State) : s.KeepsBlocks s := ⟨rfl, id, id, id, id, id⟩

theorem State.Keeps.refl (s : State) : s.Keeps s := ⟨.refl s, id⟩

theorem State.KeepsBlocks.trans {s t u : State} (h : s.KeepsBlocks t) (k : t.KeepsBlocks u) : s.KeepsBlocks u :=
  ⟨k.pending.trans h.pending, k.notices ∘ h.notices, k.pool ∘ h.pool, k.table ∘ h.table, k.requests ∘ h.requests,
    k.copy ∘ h.copy⟩

theorem State.Keeps.trans {s t u : State} (h : s.Keeps t) (k : t.Keeps u) : s.Keeps u :=
  ⟨h.toKeepsBlocks.trans k.toKeepsBlocks, k.outOfStep ∘ h.outOfStep⟩

theorem State.Keeps.ite {s t u : State} (p : Prop) [Decidable p] (h : p → s.Keeps t) (k : ¬p → s.Keeps u) :
    s.Keeps (if p then t else u) := by
  split
  · exact h ‹_›
  · exact k ‹_›

/-- In step the law of R51 asks nothing. -/
theorem State.KeepsBlocks.of_inStep {s t : State} (h : s.KeepsBlocks t)
    (hs : s.outOfStepLaw → t.tc.state.inStep = true) : s.Keeps t :=
  ⟨h, fun hl ho => absurd (hs hl) (by simp [ho])⟩

theorem State.KeepsBlocks.of_empty {s t : State} (h : s.KeepsBlocks t) (ht : s.outOfStepLaw → t.tableEmpty) : s.Keeps t :=
  ⟨h, fun hl _ => ht hl⟩

/-! ### Updates of one block -/

theorem State.keeps_onLif (f : Lif → Lif) (s : State) : s.Keeps (s.onLif f) := ⟨⟨rfl, id, id, id, id, id⟩, id⟩

theorem State.keeps_onFe (f : Fe → Fe) (s : State) : s.Keeps (s.onFe f) := ⟨⟨rfl, id, id, id, id, id⟩, id⟩

theorem State.keeps_onPins (f : Pins → Pins) (s : State) : s.Keeps (s.onPins f) := ⟨⟨rfl, id, id, id, id, id⟩, id⟩

theorem State.keeps_onCu {f : Cu → Cu} {s : State} (h : s.cu.bounds s.hp.station → (f s.cu).bounds s.hp.station) :
    s.Keeps (s.onCu f) := ⟨⟨rfl, id, id, id, id, h⟩, id⟩

theorem State.keeps_onRu {f : Ru → Ru} {s : State} (h : queueLaw s.ru.queue → queueLaw (f s.ru).queue) :
    s.Keeps (s.onRu f) := ⟨⟨rfl, id, id, id, h, id⟩, id⟩

theorem State.keeps_onHp {f : Hp → Hp} {s : State} (h : s.hp.noticeLaw → (f s.hp).noticeLaw)
    (hs : (f s.hp).station = s.hp.station) : s.Keeps (s.onHp f) :=
  ⟨⟨rfl, h, id, id, id, fun hc => by rw [State.copyLaw_iff, State.onHp_hp, hs]; exact hc⟩, id⟩

theorem State.keepsBlocks_onTc {f : Tc → Tc} {s : State} (h : (f s.tc).roster = s.tc.roster) :
    s.KeepsBlocks (s.onTc f) :=
  ⟨rfl, id, id, fun ht => by rw [State.tableLaw_iff_laws, State.onTc_tc, h]; exact ht, id, id⟩

/-- Only the wait-probe timer of the Turn Controller changes. -/
theorem State.keeps_waitTimer (t : Option Nat) (s : State) : s.Keeps (s.onTc fun tc => { tc with waitTimer := t }) :=
  ⟨State.keepsBlocks_onTc rfl, id⟩

/-! ### Notices (R136, R138) -/

theorem Hp.noticeLaw.post {h : Hp} (hl : h.noticeLaw) (n : Notice) : (h.post n).noticeLaw := by
  obtain ⟨hn, hc, ho⟩ := hl
  unfold Hp.post noticeCapacity
  split
  · exact ⟨by simpa using ‹_›, hc, ho⟩
  · exact ⟨hn, by simp, by simp⟩

theorem Hp.noticeLaw.posts {h : Hp} (hl : h.noticeLaw) (ns : List Notice) : (h.posts ns).noticeLaw := by
  induction ns generalizing h with
  | nil => exact hl
  | cons n ns ih => exact ih (hl.post n)

theorem State.keeps_post (n : Notice) (s : State) : s.Keeps (s.post n) :=
  State.keeps_onHp (fun h => h.post n) (Hp.post_station _ _)

theorem State.keeps_posts (ns : List Notice) (n : Nat) (s : State) :
    s.Keeps { s with hp := s.hp.posts ns, freeUsed := n } :=
  ⟨⟨rfl, fun h => Hp.noticeLaw.posts h ns, id, id, id, fun hc => by
    rw [State.copyLaw_iff, Hp.posts_station]; exact hc⟩, id⟩

theorem State.keeps_postAll (ns : List Notice) (s : State) : s.Keeps (s.postAll ns) := by
  rw [State.postAll_eq]; exact s.keeps_posts ns s.freeUsed

theorem State.keeps_postEither (xs ys : List Notice) (s : State) : s.Keeps (s.postEither xs ys) := by
  rw [State.postEither_eq]; exact s.keeps_posts _ _

/-! ### Station state and table -/

theorem State.keepsBlocks_setState (x : StationState) (s : State) : s.KeepsBlocks (s.setState x) :=
  State.keepsBlocks_onTc rfl

theorem State.keeps_setState_inStep {x : StationState} (h : x.inStep = true) (s : State) : s.Keeps (s.setState x) :=
  (s.keepsBlocks_setState x).of_inStep fun _ => h

theorem State.keeps_setState_empty {s : State} (h : s.outOfStepLaw → s.tableEmpty) (x : StationState) :
    s.Keeps (s.setState x) := (s.keepsBlocks_setState x).of_empty h

theorem State.discardTable_empty (s : State) : s.discardTable.tableEmpty :=
  ⟨fun z => by rw [State.discardTable_ztu, Ztu.zone_reset]; rfl, rfl, rfl, rfl, rfl⟩

theorem State.keeps_discardTable (s : State) : s.Keeps s.discardTable :=
  State.KeepsBlocks.of_empty ⟨rfl, id, fun _ => Ztu.total_reset, fun _ => Ztu.laws_reset _, id, id⟩ fun _ =>
    s.discardTable_empty

theorem Cu.bounds.stopLog {self : Station} {c : Cu} (h : c.bounds self) : c.stopLog.bounds self :=
  ⟨Nat.zero_le _, h.2⟩

theorem State.keeps_armRoll (use : RollUse) (slot : Bool) (s : State) : s.Keeps (s.armRoll use slot) := s.keeps_onFe _

/-- A station without a table may go to HAILING. -/
theorem State.keeps_enterHailing {s : State} (h : s.outOfStepLaw → s.tableEmpty) : s.Keeps s.enterHailing :=
  ((State.keeps_setState_empty h .hailing).trans (State.keeps_onFe _ _)).trans (State.keeps_onCu fun h => h.stopLog)

theorem State.keeps_enterFounding {s : State} (h : s.outOfStepLaw → s.tableEmpty) : s.Keeps s.enterFounding :=
  ((State.keeps_setState_empty h .founding).trans (State.keeps_onFe _ _)).trans (State.keeps_onCu fun h => h.stopLog)

/-- Out of step the law of R51 says that there is no table. -/
theorem State.empty_of_state {s : State} {x : StationState} (h : s.tc.state = x) (hx : x.inStep = false) :
    s.outOfStepLaw → s.tableEmpty := fun hl => hl (h ▸ hx)

theorem State.keeps_foundingAbort (s : State) : s.Keeps s.foundingAbort :=
  .ite _ (fun h => State.keeps_enterHailing (State.empty_of_state h rfl)) fun _ => .refl s

/-! ### The wait-probe timer (R49) -/

theorem State.keeps_syncWait (before : Bool) (s : State) : s.Keeps (s.syncWait before) := s.keeps_waitTimer _

theorem State.keeps_restartWait (s : State) : s.Keeps s.restartWait := s.keeps_waitTimer _

theorem State.keeps_stopWait (s : State) : s.Keeps s.stopWait := s.keeps_waitTimer none

/-! ### The source side of the Copy Unit (R75 to R83) -/

theorem State.keeps_startStream (s : State) : s.Keeps s.startStream :=
  .ite _ (fun _ => (State.keeps_onCu (s := s) id).trans (State.keeps_onFe _ _)) fun _ => .refl s

theorem State.keeps_abandonStream (s : State) : s.Keeps s.abandonStream :=
  (State.keeps_onCu (f := Cu.abandon) (s := s) fun h => ⟨h.1, h.2.1, StationSet.has_zero _⟩).trans (State.keeps_onFe _ _)

theorem State.keeps_closeSource (s : State) : s.Keeps s.closeSource :=
  s.keeps_abandonStream.trans (State.keeps_onCu fun h => ⟨h.1, StationSet.has_zero _, h.2.2⟩)

/-- A source takes in a hailer other than itself. -/
theorem State.keeps_takeHailer {h : Station} {s : State} (hne : h ≠ s.self) : s.Keeps (s.takeHailer h) := by
  have h1 : s.Keeps (s.onCu fun c =>
      { c with waiting := StationSet.add c.waiting h, streamSet := StationSet.del c.streamSet h }) :=
    State.keeps_onCu fun hb => ⟨hb.1, by
      obtain ⟨-, hw, -⟩ := hb
      simp only [StationSet.has_add, hw, Bool.false_or, decide_eq_false_iff_not]
      exact hne, by
      obtain ⟨-, -, hs⟩ := hb
      simp only [StationSet.has_del, hs, Bool.false_and]⟩
  unfold State.takeHailer
  refine h1.trans (State.Keeps.trans ?_ (State.keeps_startStream _))
  exact .ite _ (fun _ => State.keeps_abandonStream _) fun _ => .refl _

theorem State.keeps_selectSource (h : Station) (roll : Roll) (s : State) : s.Keeps (s.selectSource h roll) := by
  unfold State.selectSource
  split
  · exact .refl s
  · refine .ite _ (fun hc => ?_) fun _ => .refl s
    obtain ⟨-, hl⟩ := hc
    refine State.keeps_takeHailer fun e => ?_
    have := (StationSet.lowest_eq_some.1 hl).1
    simp [e] at this

theorem State.keeps_completeStream (s : State) : s.Keeps s.completeStream :=
  (State.keeps_onCu (f := fun c => { c with phase := .idle, streamSet := 0, image := none }) fun h =>
    ⟨h.1, h.2.1, StationSet.has_zero _⟩).trans (State.keeps_startStream _)

theorem State.keeps_nextPart (i : Nat) (s : State) : s.Keeps (s.nextPart i) :=
  (State.keeps_onCu (s := s) id).trans (State.keeps_onFe _ _)

theorem State.keeps_copyFrameDone (s : State) : s.Keeps s.copyFrameDone := by
  refine .ite _ (fun _ => s.keeps_abandonStream.trans (State.keeps_startStream _)) fun _ => ?_
  split
  · exact .refl s
  · exact .ite _ (fun _ => s.keeps_completeStream) fun _ => s.keeps_nextPart 0
  · exact .ite _ (fun _ => s.keeps_nextPart _) fun _ => s.keeps_completeStream

theorem Roll.keep_has {roll : Roll} {set : StationSet} {k : Station} (h : StationSet.has set k = false) :
    StationSet.has (roll.keep set) k = false := by
  cases roll <;> simp [Roll.keep, h]

theorem State.keeps_copyRoll (roll : Roll) (s : State) : s.Keeps (s.copyRoll roll) := by
  refine .ite _ (fun _ => .refl s) fun _ => .ite _ (fun _ => s.keeps_copyFrameDone) fun _ => .ite _ (fun _ => ?_) fun _ => ?_
  · exact (State.keeps_onCu (f := fun c => { c with streamSet := roll.keep c.streamSet }) fun h =>
      ⟨h.1, h.2.1, Roll.keep_has h.2.2⟩).trans (State.keeps_copyFrameDone _)
  · exact (State.keeps_onCu (s := s) id).trans (State.keeps_onFe _ _)

theorem State.keeps_snapshot (s : State) : s.Keeps s.snapshot := by
  unfold State.snapshot
  exact State.keeps_onCu fun ⟨hlog, hwaiting, hstream⟩ =>
    ⟨hlog, StationSet.has_zero _, by rw [StationSet.has_or, hwaiting, hstream]; rfl⟩

/-! ### The request queue (R98 to R109) -/

/-- Requests taken out of a queue leave a lawful one. -/
theorem queueLaw.sublist {q p : List Request} (h : queueLaw q) (hp : p.Sublist q) : queueLaw p := by
  obtain ⟨hl, ht, ho, hd, hn⟩ := h
  have hdrop : p.dropLast.Sublist q.dropLast := by
    rw [← List.reverse_sublist, ← List.tail_reverse, ← List.tail_reverse]
    exact (List.reverse_sublist.2 hp).tail
  exact ⟨hp.length_le.trans hl, ht.sublist (hp.map _), (hp.filter _).length_le.trans ho,
    fun r hr => hd r (hdrop.subset hr), fun r hr => hn r (hp.subset hr)⟩

/-- Requests changed in place, none put on the line, each below 8 tries. -/
theorem queueLaw.map {q : List Request} (h : queueLaw q) {g : Request → Request} (htag : ∀ r, (g r).tag = r.tag)
    (hop : ∀ r, (g r).op = r.op) (hon : ∀ r, (g r).onLine = true → r.onLine = true)
    (htries : ∀ r ∈ q, (g r).tries < 8) : queueLaw (q.map g) := by
  obtain ⟨hl, ht, ho, hd, -⟩ := h
  refine ⟨by simpa using hl, by simpa [Function.comp_def, htag] using ht, ?_, ?_, ?_⟩
  · rw [List.filter_map, List.length_map]
    exact (List.monotone_filter_right q hon).length_le.trans ho
  · rw [← List.map_dropLast]
    intro r hr
    obtain ⟨p, hp, rfl⟩ := List.mem_map.1 hr
    exact (hop p).symm ▸ hd p hp
  · intro r hr
    obtain ⟨p, hp, rfl⟩ := List.mem_map.1 hr
    exact htries p hp

theorem queueLaw.offLine {r : Ru} (h : queueLaw r.queue) : queueLaw r.offLine.queue :=
  h.map (g := fun q => { q with onLine := false }) (fun _ => rfl) (fun _ => rfl) (fun _ h => by simp at h) h.2.2.2.2

/-- The first request on the line is the only one. -/
theorem queueLaw.find_onLine {q : List Request} (h : queueLaw q) {r p : Request} (hf : q.find? (fun r => r.onLine) = some r)
    (hp : p ∈ q) (ho : p.onLine = true) : p = r := by
  obtain ⟨-, -, hone, -, -⟩ := h
  have hr : r ∈ q.filter fun r => r.onLine :=
    List.mem_filter.2 ⟨List.mem_of_find?_eq_some hf, List.find?_some (p := fun r : Request => r.onLine) hf⟩
  have hp' : p ∈ q.filter fun r => r.onLine := List.mem_filter.2 ⟨hp, ho⟩
  obtain ⟨x, hx⟩ := List.length_eq_one_iff.1 (Nat.le_antisymm hone (List.length_pos_of_mem hr))
  rw [hx, List.mem_singleton] at hr hp'
  rw [hr, hp']

theorem queueLaw.requestTry {r : Ru} (h : queueLaw r.queue) : queueLaw r.requestTry.1.queue := by
  unfold Ru.requestTry
  split
  · exact h
  · rename_i q hq
    split
    · exact h.sublist List.eraseP_sublist
    · rename_i ht
      refine h.map (fun p => ?_) (fun p => ?_) (fun p hp => ?_) fun p hp => ?_
      · split <;> rfl
      · split <;> rfl
      · by_contra ho
        rw [if_neg ho] at hp
        exact ho hp
      · split
        · rename_i ho
          rw [h.find_onLine hq hp ho]
          simp only [maxTries] at ht
          change q.tries + 1 < 8
          omega
        · exact h.2.2.2.2 p hp

/-- The head may go on the line while nothing is on it (R105, R106). -/
theorem queueLaw.takeHead {r : Ru} (h : queueLaw r.queue) (ho : r.requestOnLine = false) : queueLaw r.takeHead.queue := by
  unfold Ru.takeHead
  cases hq : r.queue with
  | nil => simpa only [hq] using h
  | cons q qs =>
    rw [hq] at h
    obtain ⟨hl, ht, -, hd, hn⟩ := h
    have off : ∀ p ∈ qs, p.onLine = false := by
      simp only [Ru.requestOnLine, hq, List.any_cons, Bool.or_eq_false_iff, List.any_eq_false, Bool.not_eq_true] at ho
      exact ho.2
    have none : qs.filter (fun r => r.onLine) = [] := List.filter_eq_nil_iff.2 fun p hp => by simp [off p hp]
    refine ⟨hl, ht, by simp [none], fun r hr => ?_, fun r hr => ?_⟩
    · cases qs with
      | nil => simp at hr
      | cons p ps =>
        rw [List.dropLast_cons_cons] at hr hd
        rcases List.mem_cons.1 hr with rfl | hr
        · exact hd q List.mem_cons_self
        · exact hd r (List.mem_cons_of_mem _ hr)
    · rcases List.mem_cons.1 hr with rfl | hr
      · exact hn q List.mem_cons_self
      · exact hn r (List.mem_cons_of_mem _ hr)

theorem queueLaw.enqueue {r : Ru} (h : queueLaw r.queue) (hl : r.leaveQueued = false) (tag : Byte) (op : ReqOp) :
    queueLaw (r.enqueue tag op).1.queue := by
  rcases r.enqueue_cases tag op with ⟨-, e⟩ | ⟨-, -, e⟩ | ⟨-, -, -, e⟩ | ⟨ht, hlen, -, e⟩ <;> rw [e]
  · exact h
  · exact h
  · exact h
  · obtain ⟨-, hnd, ho, -, hn⟩ := h
    refine ⟨by simpa using hlen, ?_, by simpa using ho, ?_, ?_⟩
    · rw [List.map_append, List.map_singleton]
      refine List.nodup_append.2 ⟨hnd, by simp, ?_⟩
      rintro _ ha _ hb rfl
      obtain ⟨q, hq, rfl⟩ := List.mem_map.1 ha
      exact ht q hq (by simpa using hb)
    · simp only [List.dropLast_concat]
      exact Ru.leaveQueued_eq_false.1 hl
    · intro q hq
      rcases List.mem_append.1 hq with hq | hq
      · exact hn q hq
      · rw [List.mem_singleton.1 hq]; simp

theorem queueLaw.submit {r : Ru} (h : queueLaw r.queue) (st : StationState) (kind tag zone mode : Byte) :
    queueLaw (r.submit st kind tag zone mode).1.queue := by
  unfold Ru.submit
  split
  · exact h
  · rename_i hc
    simp only [Bool.or_eq_true, not_or, Bool.not_eq_true] at hc
    split
    · exact h
    · split
      · exact h
      · split
        · exact h
        · exact h.enqueue hc.2 tag _

theorem queueLaw.withdraw {r : Ru} (h : queueLaw r.queue) (tag : Byte) : queueLaw (r.withdraw tag).1.queue := by
  unfold Ru.withdraw
  split
  · exact h
  · split
    · exact h
    · exact h.sublist List.eraseP_sublist

/-! ### Edit reports (R109 to R118) -/

@[simp] theorem Ru.settle_queue (r : Ru) (q : Request) (o : EditOutcome) : (r.settle q o).queue = r.queue := by
  unfold Ru.settle
  split <;> rfl

theorem queueLaw.ownApplied {r : Ru} (h : queueLaw r.queue) (own : Option Source) (o : EditOutcome) (turn : Turn) :
    queueLaw (r.ownApplied own o turn).1.queue := by
  unfold Ru.ownApplied
  split
  · split
    · exact h
    · rw [Ru.settle_queue]
      exact h.sublist List.eraseP_sublist
  · exact h
  · exact h

/-- Grants change the ticket table alone. -/
theorem Ru.grantEach_rest (turn : Turn) (zs : List Zone) (r : Ru) :
    (Ru.grantEach turn zs r).1 = { r with tickets := (Ru.grantEach turn zs r).1.tickets } := by
  induction zs generalizing r with
  | nil => rfl
  | cons z zs ih =>
    unfold Ru.grantEach
    split
    · exact ih _
    · exact ih r

theorem Ru.handle_queue (self : Station) (turn : Turn) (c : EditCause) (e : EditResult) (r : Ru) :
    (r.handle self turn c e).1.queue = (r.ownApplied c.own e.outcome turn).1.queue := by
  have hg := Ru.grantEach_rest turn (e.ownGrants self) (r.ownApplied c.own e.outcome turn).1
  unfold Ru.handle
  split
  · rw [Ru.loseEach_rest, hg]
  · rw [hg]

theorem State.keeps_ruReport (turn : Turn) (c : EditCause) (e : EditResult) (s : State) :
    s.Keeps (s.ruReport turn c e).1 := by
  unfold State.ruReport
  split
  · refine (State.keeps_onRu fun h => ?_).trans (State.keeps_syncWait _ _)
    rw [Ru.handle_queue]
    exact h.ownApplied _ _ _
  · exact .refl s

/-- The report changes of the Turn Controller the wait-probe timer alone. -/
theorem State.ruReport_tc (turn : Turn) (c : EditCause) (e : EditResult) (s : State) :
    ∃ w, (s.ruReport turn c e).1.tc = { s.tc with waitTimer := w } := by
  unfold State.ruReport
  split
  · exact ⟨_, rfl⟩
  · exact ⟨s.tc.waitTimer, rfl⟩

theorem queueLaw_nil : queueLaw [] := by simp [queueLaw]

theorem State.keeps_cancelRequests (why : Reason) (s : State) : s.Keeps (s.cancelRequests why) :=
  ((State.keeps_onRu fun _ => queueLaw_nil).trans (State.keeps_onFe _ _)).trans (State.keeps_postAll _ _)

/-! ### The lag event (R65, R117) -/

theorem State.lagEvent_empty (r : LagReason) (s : State) : (s.lagEvent r).tableEmpty := by
  obtain ⟨htc, hztu, -⟩ := s.lagEvent_spec r
  exact ⟨fun z => by rw [hztu, Ztu.zone_reset]; rfl, by rw [htc], by rw [htc], by rw [htc], by rw [htc]⟩

theorem State.keeps_lagEvent (r : LagReason) (s : State) : s.Keeps (s.lagEvent r) := by
  obtain ⟨htc, hztu, hcu, hru, -, hhp, -, -, hpending, -⟩ := s.lagEvent_spec r
  refine State.KeepsBlocks.of_empty ⟨hpending, fun h => ?_, fun _ => ?_, fun _ => ?_, fun _ => ?_, fun _ => ?_⟩ fun _ =>
    s.lagEvent_empty r
  · rw [State.noticeLaw_iff, hhp]
    exact Hp.noticeLaw.posts h _
  · rw [State.poolLaw_iff, hztu, Ztu.total_reset]
  · rw [State.tableLaw_iff_laws, hztu]
    exact Ztu.laws_reset _
  · rw [State.requestLaw_iff, hru]
    exact queueLaw_nil
  · rw [State.copyLaw_iff, hcu]
    exact ⟨Nat.zero_le _, StationSet.has_zero _, StationSet.has_zero _⟩

theorem State.keeps_duplicateLag (s : State) : s.Keeps s.duplicateLag :=
  (s.keeps_post _).trans (State.keeps_lagEvent _ _)

/-! ### The closure (R41 to R48) -/

/-- A table and a roster that an edit leaves. -/
theorem State.keepsBlocks_setTable {s : State} {e : EditResult} (ht : e.ztu.total = s.ztu.total)
    (hl : s.ztu.laws s.tc.roster → e.ztu.laws e.roster) : s.KeepsBlocks (s.setTable e) :=
  ⟨rfl, id, fun h => ht.trans h, hl, id, id⟩

theorem State.keepsBlocks_setTable_remove (e : StationSet) (s : State) :
    s.KeepsBlocks (s.setTable (s.ztu.remove s.tc.roster e s.self)) :=
  State.keepsBlocks_setTable (s.ztu.total_remove _ _ _) fun h => by
    rw [Ztu.remove_roster]; exact h.remove e s.self

theorem State.keepsBlocks_setTable_apply (k : Station) (op : OrderOp) (s : State) :
    s.KeepsBlocks (s.setTable (s.ztu.apply s.tc.roster k s.self op)) :=
  State.keepsBlocks_setTable (s.ztu.total_apply _ _ _ _) fun h => h.apply k s.self op

theorem State.evict_tc (e : StationSet) (turn : Turn) (s : State) :
    (s.evict e turn).1.tc.state = s.tc.state ∧ (s.evict e turn).1.tc.closure = s.tc.closure := by
  simp only [State.evict, State.postEither_eq]
  obtain ⟨w, hw⟩ := (s.setTable (s.ztu.remove s.tc.roster e s.self)).ruReport_tc turn
    { orig := none, op := none, own := none } (s.ztu.remove s.tc.roster e s.self)
  rw [hw]
  exact ⟨rfl, rfl⟩

theorem State.keepsBlocks_evict (e : StationSet) (turn : Turn) (s : State) : s.KeepsBlocks (s.evict e turn).1 :=
  ((s.keepsBlocks_setTable_remove e).trans (State.keeps_ruReport _ _ _ _).toKeepsBlocks).trans
    (State.keeps_postEither _ _ _).toKeepsBlocks

theorem State.keeps_leaveGroup (turn : Turn) (s : State) : s.Keeps (s.leaveGroup turn) := by
  have h1 : s.Keeps (s.discardTable.onCu fun _ => Cu.reset) :=
    s.keeps_discardTable.trans (State.keeps_onCu fun _ => ⟨Nat.zero_le _, StationSet.has_zero _, StationSet.has_zero _⟩)
  have h2 := State.keeps_setState_empty (s := s.discardTable.onCu fun _ => Cu.reset) (fun _ => s.discardTable_empty) .offline
  exact (h1.trans h2).trans (State.keeps_post _ _)

/-- The record of a closure that is held may be replaced. -/
theorem State.keeps_setClosure {s : State} {c : ClosureRecord} (hc : s.tc.closure = some c) (d : ClosureRecord) :
    s.Keeps (s.onTc fun t => { t with closure := some d }) :=
  (State.keepsBlocks_onTc rfl).of_inStep fun h => h.inStep_of_closure hc

theorem State.keeps_closureEffects {s : State} {b : ClosureRecord} (hb : s.tc.closure = some b) (c : ClosureRecord) :
    s.Keeps (s.closureEffects c) := by
  have h1 : s.Keeps ((s.onTc fun t => { t with closure := some { c with closed := true } }).onFe (Fe.withdraw .rept)) :=
    (State.keeps_setClosure hb _).trans (State.keeps_onFe _ _)
  refine h1.trans ?_
  exact (State.Keeps.ite _ (fun _ => State.keeps_leaveGroup _ _) fun _ => .refl _).trans (State.keeps_restartWait _)

theorem State.keeps_closeRecord {s : State} {c : ClosureRecord} (hc : s.tc.closure = some c) :
    s.Keeps (s.closeRecord c) := by
  unfold State.closeRecord
  split
  · exact s.keeps_lagEvent _
  · rename_i e _
    have hx : s.Keeps (if e = 0 then (s, false) else s.evict e c.turn).1 ∧
        (if e = 0 then (s, false) else s.evict e c.turn).1.tc.closure = some c := by
      split
      · exact ⟨.refl s, hc⟩
      · obtain ⟨hstate, hclosure⟩ := s.evict_tc e c.turn
        exact ⟨(s.keepsBlocks_evict e c.turn).of_inStep fun h => hstate ▸ h.inStep_of_closure hc, hclosure.trans hc⟩
    have h1 := hx.1.trans (State.keeps_closureEffects hx.2 c)
    exact .ite _ (fun _ => h1.trans (State.keeps_duplicateLag _)) fun _ => h1

theorem State.keeps_takeClosure (s : State) : s.Keeps s.takeClosure := by
  unfold State.takeClosure
  split
  · rename_i hc
    exact .ite _ (fun _ => .refl s) fun _ => State.keeps_closeRecord hc
  · exact .refl s

theorem State.keeps_orderRoll (roll : Roll) (s : State) : s.Keeps (s.orderRoll roll) := by
  unfold State.orderRoll
  split
  · exact .refl s
  · rename_i c hc
    refine .ite _ (fun _ => .refl s) fun _ => ?_
    have h1 := State.keeps_setClosure hc { c with lastRoll := some roll }
    exact .ite _ (fun _ => h1.trans (State.keeps_takeClosure _)) fun _ =>
      .ite _ (fun _ => h1.trans (State.keeps_onFe _ _)) fun _ => h1

theorem State.keeps_closeBefore (f : Frame) (s : State) : s.Keeps (s.closeBefore f) := by
  unfold State.closeBefore
  split
  · exact .ite _ (fun _ => .refl s) fun _ => s.keeps_takeClosure
  · exact .refl s

/-! ### Apply (R32 to R38) -/

theorem State.keeps_enterLeaving (s : State) : s.Keeps s.enterLeaving :=
  (((State.keeps_setState_inStep rfl s).trans (State.keeps_stopWait _)).trans (State.keeps_onRu id)).trans
    (State.keeps_closeSource _)

theorem State.keeps_membershipChange (op : OrderOp) (own : Bool) (s : State) : s.Keeps (s.membershipChange op own) := by
  refine .ite _ (fun _ => ?_) fun _ => .refl s
  split
  · exact State.keeps_setState_inStep rfl s
  · exact s.keeps_enterLeaving
  · exact .refl s

/-- After an apply the station is in step: it was before, or its own JOIN makes it a MEMBER. -/
theorem State.membershipChange_inStep {op : OrderOp} {own : Bool} {s : State}
    (h : s.tc.state.inStep = true ∨ (own = true ∧ op = .join)) : (s.membershipChange op own).tc.state.inStep = true := by
  rcases h with h | ⟨rfl, rfl⟩
  · unfold State.membershipChange
    split
    · split
      · rfl
      · rfl
      · exact h
    · exact h
  · rfl

theorem State.keeps_applyFrame {f : Frame} {op : OrderOp} {own : Option Source} {s : State}
    (h : s.tc.state.inStep = true ∨ (own.isSome = true ∧ op = .join)) : s.Keeps (s.applyFrame f op own) := by
  set e := s.ztu.apply s.tc.roster f.orig s.self op with he
  set s1 := (s.setTable e).onTc fun t => t.opened (f.record op e own.isSome) with hs1
  set x := s1.ruReport f.turn { orig := some f.orig, op := some op, own := own } e with hx
  set s2 := (x.1.postEither x.2.1 (s.membershipNotices f op own.isSome e.foreign)).membershipChange op own.isSome with hs2
  have hblocks : s.KeepsBlocks s2 :=
    ((((s.keepsBlocks_setTable_apply f.orig op).trans (State.keepsBlocks_onTc rfl)).trans
      (State.keeps_ruReport _ _ _ s1).toKeepsBlocks).trans (State.keeps_postEither _ _ _).toKeepsBlocks).trans
      (State.keeps_membershipChange _ _ _).toKeepsBlocks
  have hstep : s2.tc.state.inStep = true := State.membershipChange_inStep (by
    obtain ⟨w, hw⟩ := s1.ruReport_tc f.turn { orig := some f.orig, op := some op, own := own } e
    rw [State.postEither_eq]
    change x.1.tc.state.inStep = true ∨ _
    rw [hx, hw]
    exact h)
  have hr : s.applyFrame f op own =
      if x.2.2 then s2.duplicateLag else s2.armRoll .order (s2.tc.state.confirms && !e.foreign) := rfl
  rw [hr]
  refine .ite _ (fun _ => ?_) fun _ => ?_
  · exact (hblocks.of_inStep fun _ => hstep).trans s2.keeps_duplicateLag
  · exact (hblocks.of_inStep fun _ => hstep).trans (State.keeps_armRoll _ _ _)

theorem State.keeps_recogniseRepeat (f : Frame) (s : State) : s.Keeps (s.recogniseRepeat f) := by
  unfold State.recogniseRepeat
  split
  · rename_i c hc
    exact .ite _ (fun _ => s.keeps_lagEvent _) fun _ => (State.keeps_setClosure hc _).trans (State.keeps_armRoll _ _ _)
  · exact s.keeps_lagEvent _

theorem State.keeps_orderInStep {s : State} (h : s.tc.state.inStep = true) (f : Frame) (op : OrderOp)
    (own : Option Source) : s.Keeps (s.orderInStep f op own) := by
  unfold State.orderInStep
  split
  · exact .ite _ (fun _ => s.keeps_duplicateLag) fun _ => State.keeps_applyFrame (.inl h)
  · exact s.keeps_recogniseRepeat f
  · exact s.keeps_lagEvent _
  · exact .refl s

/-! ### Join abandonment (R67) -/

theorem State.keeps_abandonJoin (k : FrameKind) (s : State) : s.Keeps (s.abandonJoin k) := by
  have h1 := s.keeps_discardTable.trans (State.keeps_setState_empty (fun _ => s.discardTable_empty) .offline)
  exact ((((h1.trans (State.keeps_onFe _ _)).trans (State.keeps_onCu fun h => h.stopLog)).trans
    (State.keeps_cancelRequests _ _)).trans (State.keeps_post _ _))

end Sys2Proof.Machine
end

section
/-! SUPPORT. The laws of Safety.lean other than the drive law, through the requester, the Frame Engine, the Line Interface,
the Host Port and every command; then the statements O2, O21, O55 to O58 and O60. -/

namespace Sys2Proof.Machine

/-! ### The requester side of the Copy Unit (R84 to R97) -/

theorem Cu.bounds.clearRequester {self : Station} {c : Cu} (h : c.bounds self) : c.clearRequester.bounds self :=
  ⟨Nat.zero_le _, h.2⟩

theorem State.keeps_copyFailure (r : CopyReason) (s : State) : s.Keeps (s.copyFailure r) := by
  have h1 := (s.keeps_post (copyRestartNotice s.cu.awaited r)).trans (State.keeps_onCu fun h => h.clearRequester)
  exact (h1.trans (State.keeps_discardTable _)).trans
    (State.keeps_enterHailing fun _ => State.discardTable_empty _)

theorem State.keeps_hailAnswer (roll : Roll) (s : State) : s.Keeps (s.hailAnswer roll) := by
  unfold State.hailAnswer
  refine .ite _ (fun _ => .refl s) fun h => ?_
  have he : s.outOfStepLaw → s.tableEmpty := State.empty_of_state (not_not.1 h) rfl
  split
  · exact State.keeps_enterHailing he
  · split
    · exact State.keeps_enterFounding he
    · exact (State.keeps_setState_empty he .copying).trans (State.keeps_onCu id)

theorem length_onNewest (g : LogEntry → LogEntry) : ∀ l : List LogEntry, (onNewest g l).length = l.length
  | [] => rfl
  | [_] => rfl
  | _ :: e :: es => congrArg (· + 1) (length_onNewest g (e :: es))

/-- A log of the same length or shorter. -/
theorem Cu.bounds.withLog {self : Station} {c : Cu} (h : c.bounds self) {l : List LogEntry} (hl : l.length ≤ c.log.length) :
    ({ c with log := l } : Cu).bounds self := ⟨hl.trans h.1, h.2⟩

theorem Cu.bounds.closeNewest {self : Station} {c : Cu} (h : c.bounds self) : c.closeNewest.bounds self :=
  h.withLog (length_onNewest _ _).le

theorem State.keeps_appendLog (f : Frame) (op : OrderOp) (s : State) : s.Keeps (s.appendLog f op) := by
  refine .ite _ (fun _ => s.keeps_copyFailure _) fun hl => ?_
  refine (State.keeps_onCu (f := fun c => { c with log := c.log ++ [LogEntry.ofFrame f op] }) fun h => ⟨?_, h.2⟩).trans
    (State.keeps_armRoll _ _ _)
  simp only [logCapacity] at hl
  simp only [List.length_append, List.length_singleton]
  omega

theorem State.keeps_compareLog (f : Frame) (op : OrderOp) (turn : Turn) (empty : Bool) (s : State) :
    s.Keeps (s.compareLog f op turn empty) :=
  .ite _ (fun _ => s.keeps_appendLog f op) fun _ => .ite _ (fun _ => s.keeps_copyFailure _) fun _ =>
    .ite _ (fun _ => s.keeps_copyFailure _) fun _ => .refl s

theorem State.keeps_logFrame (f : Frame) (op : OrderOp) (s : State) : s.Keeps (s.logFrame f op) := by
  unfold State.logFrame
  refine .ite _ (fun _ => .refl s) fun _ => ?_
  split
  · split
    · exact s.keeps_appendLog f op
    · exact s.keeps_compareLog f op _ _
  · refine .ite _ (fun _ => ?_) fun _ => ?_
    · exact (State.keeps_onCu fun h => h.withLog (length_onNewest _ _).le).trans (State.keeps_armRoll _ _ _)
    · exact (State.keeps_onCu fun h => h.closeNewest).trans (State.keeps_compareLog _ _ _ _ _)

theorem State.keepsBlocks_replayApply (l : LogEntry) (s : State) : s.KeepsBlocks (s.replayApply l) :=
  (s.keepsBlocks_setTable_apply l.orig l.op).trans
    (State.keepsBlocks_onTc (f := fun t => t.opened (l.record (s.ztu.apply s.tc.roster l.orig s.self l.op))) rfl)

theorem State.keepsBlocks_replayClose {s t : State} (h : s.replayClose = some t) : s.KeepsBlocks t := by
  unfold State.replayClose at h
  split at h
  · cases h; exact .refl s
  · split at h
    · cases h
    · simp only at h
      split at h
      · cases h
      · cases h
        refine .trans ?_ (State.keepsBlocks_onTc rfl)
        split
        · exact .refl s
        · exact s.keepsBlocks_setTable_remove _

/-- A replay that is done has kept every law but that of R51, which holds again in JOINING. -/
theorem State.keepsBlocks_replay {ls : List LogEntry} {s t : State} (h : s.replay ls = .done t) : s.KeepsBlocks t := by
  induction ls generalizing s with
  | nil => cases h; exact .refl _
  | cons l ls ih =>
    unfold State.replay at h
    split at h
    · cases h
    · simp only at h
      split at h
      · split at h
        · cases h
        · exact ((s.keepsBlocks_replayApply l).trans (State.keepsBlocks_replayClose ‹_›)).trans (ih h)
      · exact (s.keepsBlocks_replayApply l).trans (ih h)

theorem State.keepsBlocks_putImage {st : ReqStream} {recs : List CopyRec}
    (h : imageAccepted st.roster st.occupied recs = true) (s : State) : s.KeepsBlocks (s.putImage st recs) :=
  ⟨rfl, id, fun _ => Ztu.total_ofImage h, fun _ => Ztu.laws_ofImage h, id, id⟩

theorem State.keepsBlocks_tryInstall {s t : State} (h : s.tryInstall = .done t) : s.KeepsBlocks t := by
  unfold State.tryInstall at h
  split at h
  · split at h
    · exact (State.keepsBlocks_putImage ‹_› s).trans (State.keepsBlocks_replay h)
    · cases h
  · cases h

theorem State.keeps_install (s : State) : s.Keeps s.install := by
  unfold State.install
  split
  · rename_i t ht
    have h1 : s.KeepsBlocks (t.onCu Cu.clearRequester) :=
      (State.keepsBlocks_tryInstall ht).trans (State.keeps_onCu fun h => h.clearRequester).toKeepsBlocks
    have h2 := (h1.trans (State.keepsBlocks_setState .joining _)).of_inStep fun _ => rfl
    exact (h2.trans (State.keeps_onFe _ _)).trans (State.keeps_armRoll _ _ _)
  · exact s.keeps_copyFailure _
  · refine .trans ?_ (State.keeps_copyFailure _ _)
    exact .ite _ (fun _ => s.keeps_post _) fun _ => .refl s

theorem State.keeps_answerCopy (s : State) : s.Keeps s.answerCopy :=
  (State.keeps_onCu (s := s) id).trans (State.keeps_armRoll _ _ _)

theorem State.keeps_acceptHead (h : HeadBody) (s : State) : s.Keeps (s.acceptHead h) := by
  have h1 : s.Keeps (s.onCu (Cu.takeHead h)) := State.keeps_onCu fun hb => ⟨(List.length_filter_le _ _).trans hb.1, hb.2⟩
  exact .ite _ (fun _ => s.keeps_copyFailure _) fun _ => .ite _ (fun _ => h1.trans (State.keeps_copyFailure _ _)) fun _ =>
    .ite _ (fun _ => h1.trans (State.keeps_install _)) fun _ => h1.trans (State.keeps_answerCopy _)

theorem State.keeps_copyHead (orig : Station) (body : List Byte) (s : State) : s.Keeps (s.copyHead orig body) := by
  unfold State.copyHead
  split
  · exact .refl s
  · refine .ite _ (fun _ => .refl s) fun _ => ?_
    split
    · exact .ite _ (fun _ => s.keeps_answerCopy) fun _ => s.keeps_acceptHead _
    · exact s.keeps_acceptHead _

theorem State.keeps_copyPart (orig : Station) (body : List Byte) (s : State) : s.Keeps (s.copyPart orig body) := by
  unfold State.copyPart
  split
  · refine .ite _ (fun _ => .refl s) fun _ => .ite _ (fun _ => s.keeps_answerCopy) fun _ =>
      .ite _ (fun _ => s.keeps_copyFailure _) fun _ => ?_
    split
    · exact s.keeps_copyFailure _
    · rename_i recs _
      have h1 (st : ReqStream) : s.Keeps (s.onCu (Cu.takePart st recs)) := State.keeps_onCu (f := Cu.takePart st recs) id
      exact .ite _ (fun _ => (h1 _).trans (State.keeps_install _)) fun _ => (h1 _).trans (State.keeps_answerCopy _)
  · exact .refl s

/-! ### Line state, rolls, discards (R157, R164, R167, R177) -/

theorem State.keeps_setLine (x : LineState) (s : State) : s.Keeps (s.setLine x) := s.keeps_onLif _

theorem State.keeps_setHold (s : State) : s.Keeps s.setHold := s.keeps_onFe _

theorem State.keeps_leaveIdle (s : State) : s.Keeps s.leaveIdle :=
  .ite _ (fun _ => (s.keeps_setLine _).trans (State.keeps_onFe _ _)) fun _ => .refl s

theorem State.keeps_handRoll (roll : Roll) (s : State) : s.Keeps (s.handRoll roll) := by
  have h1 := s.keeps_onFe Fe.endRoll
  unfold State.handRoll
  split
  · exact h1
  · exact h1.trans (State.keeps_orderRoll _ _)
  · exact h1.trans (State.keeps_onCu fun h => h.withLog (length_onNewest _ _).le)
  · exact h1.trans (State.keeps_hailAnswer _ _)
  · exact h1.trans (State.keeps_selectSource _ _ _)
  · exact h1.trans (State.keeps_copyRoll _ _)

theorem State.keeps_cutRoll (s : State) : s.Keeps s.cutRoll := .ite _ (fun _ => s.keeps_handRoll _) fun _ => .refl s

theorem State.keeps_discardFrame (s : State) : s.Keeps s.discardFrame := by
  unfold State.discardFrame
  split
  · exact .refl s
  · exact .ite _ (fun _ => s.keeps_onFe _) fun _ => (s.keeps_onFe _).trans (State.keeps_foundingAbort _)

/-! ### Ends of attempts (R171, R174) -/

theorem State.keeps_joinTry (k : FrameKind) (s : State) : s.Keeps (s.joinTry k) := by
  unfold State.joinTry
  split
  all_goals
    split
    · exact .refl s
    · exact .ite _ (fun _ => s.keeps_abandonJoin _) fun _ => s.keeps_onFe _

theorem State.keeps_copyTry (s : State) : s.Keeps s.copyTry := by
  unfold State.copyTry
  split
  · exact .refl s
  · exact .ite _ (fun _ => s.keeps_abandonStream.trans (State.keeps_startStream _)) fun _ => s.keeps_onFe _

theorem State.keeps_reportTry (src : Source) (s : State) : s.Keeps (s.reportTry src) := by
  cases src with
  | rept => exact s.keeps_onFe _
  | join => exact s.keeps_joinTry .join
  | hail => exact s.keeps_joinTry .hail
  | copy => exact s.keeps_copyTry
  | request => exact (State.keeps_onRu fun h => h.requestTry).trans (State.keeps_postAll _ _)
  | touch =>
    have h1 : s.Keeps (s.onRu fun _ => s.ru.touchTry.1) := State.keeps_onRu fun h => by
      unfold Ru.touchTry
      split <;> exact h
    have h2 := h1.trans (State.keeps_postAll s.ru.touchTry.2 _)
    exact .ite _ (fun _ => h2) fun _ => h2.trans (State.keeps_restartWait _)

theorem State.keeps_attemptFailed (s : State) : s.Keeps s.attemptFailed := by
  unfold State.attemptFailed
  split
  · exact .refl s
  · exact .ite _ (fun _ => s.keeps_onFe _) fun _ => (s.keeps_onFe _).trans (State.keeps_reportTry _ _)

theorem State.keeps_endFaulted (s : State) : s.Keeps s.endFaulted :=
  .ite _ (fun _ => s.keeps_attemptFailed) fun _ => .refl s

theorem State.keeps_lineIdle (s : State) : s.Keeps s.lineIdle :=
  (s.keeps_endFaulted.trans (State.keeps_setLine _ _)).trans (State.keeps_onFe _ _)

theorem State.keeps_attemptEnded (s : State) : s.Keeps s.attemptEnded :=
  (s.keeps_onFe _).trans (State.keeps_onRu fun h => h.offLine)

theorem State.keeps_loseArbitration (s : State) : s.Keeps s.loseArbitration :=
  (s.keeps_attemptEnded.trans (State.keeps_onFe _ _)).trans (State.keeps_onLif _ _)

theorem State.keeps_faultFound (duplicate : Bool) (s : State) : s.Keeps (s.faultFound duplicate) := by
  refine .trans ?_ ((State.keeps_onFe _ _).trans (State.keeps_onLif _ _))
  exact .ite _ (fun _ => s.keeps_post _) fun _ => .refl s

/-! ### The sender's tests (R171 to R173) -/

theorem State.keeps_testFailed (x : Symbol) (late : Bool) (s : State) : s.Keeps (s.testFailed x late) :=
  .ite _ (fun _ => s.keeps_loseArbitration) fun _ => s.keeps_faultFound _

theorem State.keeps_senderFault (s : State) : s.Keeps s.senderFault :=
  .ite _ (fun _ => s.keeps_faultFound _) fun _ => .refl s

theorem State.keeps_startFault (s : State) : s.Keeps s.startFault := (s.keeps_onFe _).trans (State.keeps_faultFound _ _)

theorem State.keeps_quietPassed (t : Nat) (s : State) : s.Keeps (s.quietPassed t) := by
  rcases s.quietPassed_cases t with h | ⟨n, -, -, h⟩
  · rw [h]; exact s.keeps_onLif _
  · rw [h]; exact ((s.keeps_onLif _).trans (State.keeps_startFault _)).trans (State.keeps_onLif _ _)

theorem State.keeps_stretchPassed (gap : Nat) (s : State) : s.Keeps (s.stretchPassed gap) :=
  .ite _ (fun _ => .refl s) fun _ => (s.keeps_quietPassed _).trans (State.keeps_onLif _ _)

theorem State.keeps_pulseTested (len : Nat) (s : State) : s.Keeps (s.pulseTested len) := by
  unfold State.pulseTested
  split
  · exact .refl s
  · exact .ite _ (fun _ => s.keeps_startFault) fun _ =>
      .ite _ (fun _ => (s.keeps_onLif _).trans (State.keeps_testFailed _ _ _)) fun _ =>
        .ite _ (fun _ => (s.keeps_onLif _).trans (State.keeps_testFailed _ _ _)) fun _ => .refl s

/-! ### Acceptance (R163 to R166) -/

theorem State.keeps_attemptSent (a : Attempt) (s : State) : s.Keeps (s.attemptSent a) := s.keeps_onFe _

theorem State.keeps_handOrder (f : Frame) (op : OrderOp) (own : Option Source) (s : State) :
    s.Keeps (s.handOrder f op own) := by
  unfold State.handOrder
  split
  · exact State.keeps_orderInStep (by simp [*, StationState.inStep]) f op own
  · exact State.keeps_orderInStep (by simp [*, StationState.inStep]) f op own
  · exact State.keeps_orderInStep (by simp [*, StationState.inStep]) f op own
  · refine .ite _ (fun h => State.keeps_applyFrame (.inr ?_)) fun _ => s.keeps_foundingAbort
    simp only [Bool.and_eq_true, beq_iff_eq] at h
    exact h.1
  · exact s.keeps_logFrame f op
  · exact s.keeps_logFrame f op
  · exact .refl s

theorem State.keeps_handCopy (f : Frame) (own : Bool) (s : State) : s.Keeps (s.handCopy f own) := by
  unfold State.handCopy
  split
  · exact s.keeps_foundingAbort
  · exact .ite _ (fun _ => s.keeps_armRoll _ _) fun _ => .refl s
  · split
    · exact s.keeps_copyHead _ _
    · exact s.keeps_copyPart _ _
    · exact .refl s
  · exact .refl s

theorem State.keeps_handHail (f : Frame) (own : Bool) (s : State) : s.Keeps (s.handHail f own) := by
  refine .ite _ (fun _ => .ite _ (fun _ => ?_) fun _ => .refl s) fun _ => .ite _ (fun _ => s.keeps_armRoll _ _) fun _ =>
    .refl s
  exact (State.keeps_onCu (f := Cu.startLog) fun h => ⟨Nat.zero_le _, h.2⟩).trans (State.keeps_armRoll _ _ _)

theorem State.keeps_handFrame (f : Frame) (own : Option Attempt) (s : State) : s.Keeps (s.handFrame f own) := by
  refine (s.keeps_closeBefore f).trans ?_
  unfold State.handFrame
  simp only
  split
  · exact State.keeps_handOrder _ _ _ _
  · exact State.keeps_handHail _ _ _
  · exact State.keeps_handCopy _ _ _

theorem State.keeps_acceptedFrame (f : Frame) (r : Reception) (s : State) : s.Keeps (s.acceptedFrame f r) := by
  have h2 : ∀ own : Option Attempt, s.Keeps (match own with
      | none => s.onFe fun g => { g with rx := none }
      | some a => (s.onFe fun g => { g with rx := none }).attemptSent a) := fun own => by
    cases own with
    | none => exact s.keeps_onFe _
    | some a => exact (s.keeps_onFe _).trans (State.keeps_attemptSent _ _)
  have h3 := (h2 (if r.mark then s.sending else none)).trans (State.keeps_handFrame f (if r.mark then s.sending else none) _)
  exact .ite _ (fun _ => h3.trans (State.keeps_setHold _)) fun _ => h3

/-! ### The take (R168 to R170) -/

theorem State.keeps_takeAtSource {src : Source} {s : State} (h : src = .request → s.ru.requestOnLine = false) :
    s.Keeps (s.takeAtSource src) := by
  cases src with
  | request => exact State.keeps_onRu fun hl => hl.takeHead (h rfl)
  | touch => exact State.keeps_onRu (f := fun r => { r with touchOnLine := true }) id
  | copy => exact .ite _ (fun _ => s.keeps_snapshot) fun _ => .refl s
  | _ => exact .refl s

theorem State.keeps_take {src : Source} {s : State} (h : src = .request → s.ru.requestOnLine = false) :
    s.Keeps (s.take src) := by
  unfold State.take
  simp only
  split
  · exact .refl s
  · exact (((State.keeps_takeAtSource h).trans (State.keeps_leaveIdle _)).trans (State.keeps_onFe _ _)).trans
      (State.keeps_onLif _ _)

/-- The selector takes a request only while none is on the line (R105). -/
theorem State.selected_request {s : State} (h : s.selected = some .request) : s.ru.requestOnLine = false := by
  have offers : s.ruOffers = true → s.ru.requestOnLine = false := fun ho => by
    simp only [State.ruOffers, Bool.and_eq_true, Bool.not_eq_true'] at ho
    obtain ⟨⟨⟨-, hr⟩, -⟩, -⟩ := ho
    exact hr
  unfold State.selected at h
  by_cases ho : s.ruOffers = true
  · exact offers ho
  · simp only [ho, Bool.false_eq_true, if_false] at h
    cases hs : s.tc.state <;> simp only [hs] at h <;> split_ifs at h <;> cases h

/-! ### Timers and the line's counts (R50, R87, R154, R156, R167) -/

theorem State.keeps_yieldLapsed (s : State) : s.Keeps s.yieldLapsed :=
  (s.keeps_takeClosure.trans (State.keeps_onCu fun h => h.closeNewest)).trans (State.keeps_onFe _ _)

theorem State.keeps_waitRunOut (s : State) : s.Keeps s.waitRunOut :=
  (State.keeps_onRu (s := s) id).trans (State.keeps_stopWait _)

theorem State.keeps_quietSynced (s : State) : s.Keeps s.quietSynced := (s.keeps_onLif _).trans (State.keeps_lineIdle _)

theorem State.keeps_stuckCleared (s : State) : s.Keeps s.stuckCleared :=
  (((s.keeps_onLif _).trans (State.keeps_post _ _)).trans (State.keeps_setHold _)).trans (State.keeps_lineIdle _)

/-! ### Pulses (R148 to R156) -/

theorem State.keeps_openSeen (s : State) : s.Keeps s.openSeen := by
  unfold State.openSeen
  exact ((s.keeps_leaveIdle.trans (State.keeps_cutRoll _)).trans (State.keeps_setLine _ _)).trans (State.keeps_onFe _ _)

theorem State.keeps_bitSeen (b : Bool) (s : State) : s.Keeps (s.bitSeen b) := s.keeps_onFe _

theorem State.keeps_haltSeen (s : State) : s.Keeps s.haltSeen := by
  have h1 := ((s.keeps_leaveIdle.trans (State.keeps_cutRoll _)).trans (State.keeps_discardFrame _)).trans
    (State.keeps_attemptFailed _)
  exact ((h1.trans (State.keeps_setLine _ _)).trans (State.keeps_onLif _ _)).trans (State.keeps_setHold _)

theorem State.keeps_damageSeen (s : State) : s.Keeps s.damageSeen :=
  (((s.keeps_leaveIdle.trans (State.keeps_cutRoll _)).trans (State.keeps_discardFrame _)).trans
    (State.keeps_setLine _ _)).trans (State.keeps_senderFault _)

theorem State.keeps_pulsePassed (len : Nat) (s : State) : s.Keeps (s.pulsePassed len) :=
  (s.keeps_pulseTested len).trans (State.keeps_onLif _ _)

theorem State.keeps_unsyncedPulse (len : Nat) (s : State) : s.Keeps (s.unsyncedPulse len) := by
  unfold State.unsyncedPulse
  split
  · exact .refl s
  · exact (s.keeps_onLif _).trans (State.keeps_haltSeen _)
  · exact (s.keeps_onLif _).trans (State.keeps_openSeen _)
  · exact s.keeps_onLif _

theorem State.keeps_gapDamaged (gap : Nat) (s : State) : s.Keeps (s.gapDamaged gap) :=
  (s.keeps_stretchPassed gap).trans (State.keeps_damageSeen _)

theorem State.keeps_framePulse (len : Nat) (s : State) : s.Keeps (s.framePulse len) := by
  have h1 := s.keeps_pulsePassed len
  unfold State.framePulse
  split
  · exact .refl s
  · exact .refl s
  · exact h1.trans (State.keeps_haltSeen _)
  · exact h1.trans (State.keeps_bitSeen _ _)
  · exact h1.trans (State.keeps_damageSeen _)
  · exact h1.trans (State.keeps_damageSeen _)

theorem State.keeps_frameStretchPulse (gap len : Nat) (s : State) : s.Keeps (s.frameStretchPulse gap len) :=
  .ite _ (fun _ => (s.keeps_gapDamaged gap).trans (State.keeps_unsyncedPulse _ _)) fun _ =>
    .ite _ (fun _ => (s.keeps_stretchPassed gap).trans (State.keeps_framePulse _ _)) fun _ => .refl s

theorem State.keeps_startPulse (len : Nat) (s : State) : s.Keeps (s.startPulse len) := by
  have h1 := s.keeps_pulsePassed len
  unfold State.startPulse
  split
  · exact .refl s
  · exact .refl s
  · exact h1.trans (State.keeps_haltSeen _)
  · exact h1.trans (State.keeps_openSeen _)
  · exact h1.trans (State.keeps_damageSeen _)
  · exact h1.trans (State.keeps_damageSeen _)

theorem State.keeps_pulseEnded (gap : Option Nat) (len : Nat) (s : State) : s.Keeps (s.pulseEnded gap len) := by
  unfold State.pulseEnded
  split
  · split
    · exact s.keeps_frameStretchPulse _ _
    · exact s.keeps_framePulse _
  · exact .ite _ (fun _ => (s.keeps_onLif _).trans (State.keeps_haltSeen _)) fun _ => .refl s
  · exact s.keeps_unsyncedPulse _
  · exact .ite _ (fun _ => .refl s) fun _ => s.keeps_onLif _
  · exact s.keeps_startPulse _

theorem State.keeps_stuckSeen (s : State) : s.Keeps s.stuckSeen := by
  have h1 := (s.keeps_leaveIdle.trans (State.keeps_pulseTested 1600 _)).trans
    (State.keeps_onLif (fun l => { l.dominantFor 1600 with drive := none }) _)
  have h2 := ((h1.trans (State.keeps_attemptFailed _)).trans (State.keeps_discardFrame _)).trans (State.keeps_cutRoll _)
  exact (h2.trans (State.keeps_post _ _)).trans (State.keeps_setLine _ _)

/-! ### The CLOSE and the roll window (R149 to R151, R163) -/

theorem State.keeps_closeSeen (r : Reception) (s : State) : s.Keeps (s.closeSeen r) := by
  have h1 := s.keeps_quietPassed (140 - s.lif.lasted)
  have h2 : s.Keeps (if (s.quietPassed (140 - s.lif.lasted)).underTest.isSome then
      (s.quietPassed (140 - s.lif.lasted)).senderFault else s.quietPassed (140 - s.lif.lasted)) :=
    .ite _ (fun _ => h1.trans (State.keeps_senderFault _)) fun _ => h1
  have h3 := (h2.trans (State.keeps_onLif Lif.closed _)).trans (State.keeps_onFe Fe.endRoll _)
  unfold State.closeSeen
  simp only
  split
  · exact h3.trans (State.keeps_acceptedFrame _ _ _)
  · refine .trans ?_ (State.keeps_discardFrame _)
    exact .ite _ (fun _ => h3.trans (State.keeps_attemptEnded _)) fun _ => h3

theorem State.keeps_slotEnded (k : Nat) (r : SlotReport) (s : State) : s.Keeps (s.slotEnded k r) :=
  (s.keeps_onFe _).trans (State.keeps_onLif _ _)

/-! ### One quantum without a command -/

theorem State.keeps_countQuantum (s : State) : s.Keeps s.countQuantum := by
  have h1 := (s.keeps_quietPassed 40).trans
    (State.keeps_onFe (fun f => { f with yieldTimer := f.yieldTimer.map (· + 1) }) _)
  exact (h1.trans (State.keeps_waitTimer _ _)).trans (State.keeps_onCu id)

theorem State.keeps_fireLine (s : State) : s.Keeps s.fireLine := by
  refine .ite _ (fun _ => .ite _ (fun _ => s.keeps_stuckSeen) fun _ => ?_) fun _ => .refl s
  split
  · exact s.keeps_yieldLapsed
  · exact s.keeps_quietSynced
  · exact s.keeps_stuckCleared
  · exact .refl s

theorem State.keeps_fireTimer (s : State) : s.Keeps s.fireTimer :=
  .ite _ (fun _ => s.keeps_waitRunOut) fun _ => .ite _ (fun _ => s.keeps_copyFailure _) fun _ => .refl s

theorem State.keeps_tick (s : State) : s.Keeps s.tick := by
  have h1 := s.keeps_countQuantum
  have h2 : s.Keeps { s.countQuantum with freeUsed := s.countQuantum.freeUsed + 1 } :=
    h1.trans ⟨⟨rfl, id, id, id, id, id⟩, id⟩
  refine .ite _ (fun _ => .refl s) fun _ => .ite _ (fun _ => .ite _ (fun _ => ?_) fun _ => ?_) fun _ => ?_
  · exact (h2.trans (State.keeps_fireLine _)).trans (State.keeps_fireTimer _)
  · exact (h2.trans (State.keeps_fireTimer _)).trans (State.keeps_fireLine _)
  · exact (h1.trans (State.keeps_fireLine _)).trans (State.keeps_fireTimer _)

/-! ### The Host Port (Section 6) -/

theorem State.keeps_reply (c : HostCmd) (s : State) : s.Keeps (s.reply c).state := by
  cases c with
  | status => exact .refl s
  | configure limit options =>
    change s.Keeps (s.configureReply limit options).state
    unfold State.configureReply
    split_ifs
    · exact .refl s
    · exact .refl s
    · exact ⟨⟨rfl, id, id, id, id, id⟩, id⟩
  | join =>
    change s.Keeps s.joinReply.state
    unfold State.joinReply
    split
    · exact State.keeps_enterHailing (State.empty_of_state ‹_› rfl)
    · exact .refl s
  | submit kind tag zone mode =>
    exact State.keeps_onRu (f := fun _ => (s.ru.submit s.tc.state kind tag zone mode).1) fun h => h.submit _ _ _ _ _
  | withdraw tag => exact State.keeps_onRu (f := fun _ => (s.ru.withdraw tag).1) fun h => h.withdraw _
  | fetch =>
    change s.Keeps s.fetchReply.state
    unfold State.fetchReply
    split <;> exact .refl s
  | readZone zone =>
    change s.Keeps (s.readZoneReply zone).state
    unfold State.readZoneReply
    split <;> exact .refl s
  | restart => exact .refl s
  | bad code => exact .refl s

theorem State.keeps_commit (c : HostCmd) (s : State) : s.Keeps ((s.reply c).commit c) :=
  (s.keeps_reply c).trans (State.keeps_onHp id rfl)

theorem State.keeps_takeCommand (c : HostCmd) (s : State) : s.Keeps (s.takeCommand c) := by
  unfold State.takeCommand
  split
  · exact .refl s
  · exact .ite _ (fun _ => s.keeps_commit c) fun _ => .refl s

/-- The end of a reply keeps the law of the notice queue: a STATUS leaves the flag that its count of discards asks for. -/
theorem Hp.noticeLaw.replyEnded {h : Hp} (hl : h.noticeLaw) (k : Taken) : (h.replyEnded k).noticeLaw := by
  unfold Hp.replyEnded
  split
  · exact ⟨hl.1, Nat.min_le_left _ _, by simp only [Hp.clearFlags, bne_iff_ne]; omega⟩
  · split
    · exact ⟨by have := hl.1; simp only [List.length_drop]; omega, hl.2⟩
    · exact hl
  · exact hl

theorem Hp.replyEnded_station (k : Taken) (h : Hp) : (h.replyEnded k).station = h.station := by
  unfold Hp.replyEnded
  split
  · rfl
  · split <;> rfl
  · rfl

theorem State.keeps_endReply (which : HostCmd → Bool) (s : State) : s.Keeps (s.endReply which) := by
  unfold State.endReply
  split
  · exact .refl s
  · split
    · exact .refl s
    · exact .ite _ (fun _ => State.keeps_onHp (fun h => Hp.noticeLaw.replyEnded (h := s.hp.shiftedTo _ _ _) h _) (Hp.replyEnded_station _ _)) fun _ =>
        .refl s

theorem State.keeps_sckEdge (sdi : Bool) (s : State) : s.Keeps (s.sckEdge sdi) := by
  unfold State.sckEdge
  split
  · exact .refl s
  · split
    · refine State.keeps_onHp (fun h => ?_) ?_
      · simp only
        split
        · exact Hp.noticeLaw.replyEnded (h := s.hp.shiftedTo _ _ _) h _
        · exact h
      · simp only
        split
        · exact Hp.replyEnded_station _ _
        · rfl
    · simp only
      split
      · exact s.keeps_commit _
      · exact State.keeps_onHp id rfl

theorem State.keeps_openTransaction (s : State) : s.Keeps s.openTransaction := by
  refine .ite _ (fun _ => s.keeps_onPins _) fun _ => ?_
  split
  · exact .refl s
  · exact (s.keeps_onPins _).trans (State.keeps_onHp id rfl)

theorem State.keeps_holdReset (s : State) : s.Keeps s.holdReset :=
  ((s.keeps_onPins _).trans (State.keeps_onHp id rfl)).trans (State.keeps_onLif _ _)

/-- The reset values of the blocks meet every law but that of the notice queue, which they do not touch. -/
theorem State.keeps_resetBlocks (low : Bool) (s : State) : s.Keeps (s.resetBlocks low) :=
  State.KeepsBlocks.of_empty
    ⟨rfl, id, fun _ => Ztu.total_reset, fun _ => Ztu.laws_reset _, fun _ => queueLaw_nil, fun _ =>
      ⟨Nat.zero_le _, StationSet.has_zero _, StationSet.has_zero _⟩⟩ fun _ =>
    ⟨fun z => by rw [State.resetBlocks, Ztu.zone_reset]; rfl, rfl, rfl, rfl, rfl⟩

theorem State.keeps_softReset (low : Bool) (s : State) : s.Keeps (s.softReset low) :=
  (s.keeps_resetBlocks low).trans (State.keeps_onHp (fun _ => ⟨by simp [Hp.softReset], by simp [Hp.softReset], by simp [Hp.softReset]⟩) rfl)

theorem State.keeps_pinReset (sn : Station) (qs : Fin 4) (low : Bool) (s : State) : s.Keeps (s.pinReset sn qs low) := by
  have h1 := s.keeps_resetBlocks low
  refine .trans ?_ (State.keeps_onPins _ _)
  exact ⟨⟨rfl, fun _ => ⟨by simp [Hp.pinReset], by simp [Hp.pinReset], by simp [Hp.pinReset]⟩, h1.pool, h1.table, h1.requests, fun _ =>
    ⟨Nat.zero_le _, StationSet.has_zero _, StationSet.has_zero _⟩⟩, h1.outOfStep⟩

theorem State.keeps_closeTransaction (low : Bool) (s : State) : s.Keeps (s.closeTransaction low) := by
  have h1 := s.keeps_onPins fun p => { p with csnLow := false }
  unfold State.closeTransaction
  simp only
  split
  · exact h1
  · have h2 := h1.trans (State.keeps_onHp (f := fun h => { h with txn := none }) id rfl)
    split
    · exact .ite _ (fun _ => h2.trans (State.keeps_softReset _ _)) fun _ => h2
    · exact .ite _ (fun _ => h2) fun _ => h2.trans (State.keeps_onHp id rfl)

/-! ### The commands of frames -/

theorem State.keeps_pulseFault (len : Nat) (s : State) : s.Keeps (s.pulseFault len) :=
  ((s.keeps_pulseTested len).trans (State.keeps_onLif _ _)).trans (State.keeps_senderFault _)

theorem State.keeps_damageFault (cause : DamageCause) (s : State) : s.Keeps (s.damageFault cause) := by
  have hgap (g : Nat) := (s.keeps_stretchPassed g).trans (State.keeps_senderFault _)
  unfold State.damageFault
  split
  · split
    · exact .ite _ (fun _ => hgap _) fun _ => .refl s
    · exact .refl s
  · split
    · exact .ite _ (fun _ => .refl s) fun _ => .ite _ (fun _ => s.keeps_pulseFault _) fun _ =>
        .ite _ (fun _ => hgap _) fun _ => (s.keeps_stretchPassed _).trans (State.keeps_pulseFault _ _)
    · exact .refl s

/-! ### Every command -/

theorem live_keeps {f : State → State} {s : State} (h : s.Keeps (f s)) : ∃ t, live f s = .next t ∧ s.Keeps t :=
  ⟨_, rfl, .ite _ (fun _ => .refl s) fun _ => h⟩

theorem execBitFault_keeps (form : FaultForm) (s : State) : ∃ t, execBitFault form s = .next t ∧ s.Keeps t := by
  refine live_keeps ?_
  split
  · exact .refl s
  · split
    · exact .ite _ (fun _ => s.keeps_pulseFault _) fun _ => (s.keeps_onLif _).trans (State.keeps_testFailed _ _ _)
    · split
      · exact .ite _ (fun _ => s.keeps_pulseFault _) fun _ => .refl s
      · exact .refl s
    · split
      · exact .ite _ (fun _ => (s.keeps_stretchPassed _).trans (State.keeps_senderFault _)) fun _ => .refl s
      · exact .refl s
    · exact s.keeps_damageFault _
    · cases s.pulseDue with
      | none => exact .refl s
      | some n => exact s.keeps_quietPassed _

theorem execBitDrive_keeps (s : State) : ∃ t, execBitDrive s = .next t ∧ s.Keeps t := by
  refine live_keeps ?_
  split
  · exact .ite _ (fun _ => (s.keeps_onFe _).trans (State.keeps_onLif _ _)) fun _ => .refl s
  · exact .refl s

theorem State.keeps_dominantEdge (s : State) : s.Keeps s.dominantEdge :=
  .ite _ (fun _ => .refl s) fun _ => .ite _ (fun _ => (s.keeps_stretchPassed 0).trans (State.keeps_cutRoll _)) fun _ =>
    (s.keeps_stretchPassed 0).trans (State.keeps_leaveIdle _)

theorem execOpenPulse_keeps (pulse : Stretch) (s : State) : ∃ t, execOpenPulse pulse s = .next t ∧ s.Keeps t := by
  refine live_keeps ?_
  split
  · exact s.keeps_pulseEnded _ _
  · exact .refl s

theorem execHalt_keeps (pulse : Stretch) (s : State) : ∃ t, execHalt pulse s = .next t ∧ s.Keeps t := by
  refine live_keeps ?_
  split
  · exact s.keeps_pulseEnded _ _
  · exact .refl s

theorem execDataBit_keeps (gap pulse : Stretch) (s : State) : ∃ t, execDataBit gap pulse s = .next t ∧ s.Keeps t := by
  refine live_keeps ?_
  split
  · exact s.keeps_pulseEnded _ _
  · exact .refl s

theorem execDamage_keeps (cause : DamageCause) (s : State) : ∃ t, execDamage cause s = .next t ∧ s.Keeps t := by
  refine live_keeps ?_
  split
  · split
    · exact .ite _ (fun _ => s.keeps_pulseEnded _ _) fun _ => .refl s
    · exact .refl s
  · split
    · exact .ite _ (fun _ => s.keeps_gapDamaged _) fun _ => .refl s
    · exact .refl s

theorem execQuietCountReset_keeps (pulse : Stretch) (s : State) :
    ∃ t, execQuietCountReset pulse s = .next t ∧ s.Keeps t := by
  refine live_keeps ?_
  split
  · exact .ite _ (fun _ => s.keeps_pulseEnded _ _) fun _ => .refl s
  · exact s.keeps_pulseEnded _ _
  · exact .refl s

theorem execOwnSlotDrive_keeps (first : Stretch) (later : List Stretch) (s : State) :
    ∃ t, execOwnSlotDrive s first later = .next t ∧ s.Keeps t := by
  refine live_keeps ?_
  split
  · exact .ite _ (fun _ => (s.keeps_onFe _).trans (State.keeps_onLif _ _)) fun _ => .refl s
  · exact .refl s

theorem execSlotRead_keeps (first : Stretch) (later : List Stretch) (s : State) :
    ∃ t, execSlotRead first later s = .next t ∧ s.Keeps t := by
  refine live_keeps ?_
  simp only
  split
  · exact .ite _ (fun _ => s.keeps_slotEnded _ _) fun _ => .refl s
  · exact .refl s

theorem execFrameTake_keeps (s : State) : ∃ t, execFrameTake s = .next t ∧ s.Keeps t := by
  refine live_keeps ?_
  split
  · rename_i src hsel
    exact State.keeps_take fun h => State.selected_request (h ▸ hsel)
  · exact .refl s

theorem execFrameClose_keeps (s : State) : ∃ t, execFrameClose s = .next t ∧ s.Keeps t := by
  refine live_keeps ?_
  split
  · exact .ite _ (fun _ => s.keeps_closeSeen _) fun _ => .refl s
  · exact .refl s

/-- Every command answers a next state that keeps the queue and the laws. -/
theorem exec_keeps (c : Instr) (s : State) : ∃ t, exec c s = .next t ∧ s.Keeps t := by
  cases c with
  | pinResetAssert => exact ⟨_, rfl, s.keeps_holdReset⟩
  | pinResetRelease straps low => exact ⟨_, rfl, .ite _ (fun _ => s.keeps_pinReset _ _ _) fun _ => .refl s⟩
  | status => exact ⟨_, rfl, s.keeps_takeCommand _⟩
  | statusReplyEnd => exact ⟨_, rfl, s.keeps_endReply _⟩
  | configure limit options => exact ⟨_, rfl, s.keeps_takeCommand _⟩
  | join => exact ⟨_, rfl, s.keeps_takeCommand _⟩
  | submit kind tag zone mode => exact ⟨_, rfl, s.keeps_takeCommand _⟩
  | withdraw tag => exact ⟨_, rfl, s.keeps_takeCommand _⟩
  | fetch => exact ⟨_, rfl, s.keeps_takeCommand _⟩
  | fetchReplyEnd => exact ⟨_, rfl, s.keeps_endReply _⟩
  | readZone zone => exact ⟨_, rfl, s.keeps_takeCommand _⟩
  | restart => exact ⟨_, rfl, s.keeps_takeCommand _⟩
  | badCommand code => exact ⟨_, rfl, .ite _ (fun _ => s.keeps_takeCommand _) fun _ => .refl s⟩
  | transactionEnd low => exact ⟨_, rfl, s.keeps_closeTransaction _⟩
  | lineDominant => exact live_keeps s.keeps_dominantEdge
  | openPulse pulse => exact execOpenPulse_keeps pulse s
  | frameClose => exact execFrameClose_keeps s
  | ownSlotDrive first later => exact execOwnSlotDrive_keeps first later s
  | slotRead first later => exact execSlotRead_keeps first later s
  | restEnd =>
    exact live_keeps (.ite _ (fun _ => ((s.keeps_onLif _).trans (State.keeps_handRoll _ _)).trans (State.keeps_lineIdle _))
      fun _ => .refl s)
  | yieldLapse => exact live_keeps (.ite _ (fun _ => s.keeps_yieldLapsed) fun _ => .refl s)
  | frameTake => exact execFrameTake_keeps s
  | arbitrationLost =>
    exact live_keeps (.ite _ (fun _ => (s.keeps_onLif _).trans (State.keeps_testFailed _ _ _)) fun _ => .refl s)
  | bitFault form => exact execBitFault_keeps form s
  | halt pulse => exact execHalt_keeps pulse s
  | haltRestEnd => exact live_keeps (.ite _ (fun _ => (s.keeps_onLif _).trans (State.keeps_lineIdle _)) fun _ => .refl s)
  | damage cause => exact execDamage_keeps cause s
  | syncQuiet => exact live_keeps (.ite _ (fun _ => s.keeps_quietSynced) fun _ => .refl s)
  | lineStuck =>
    exact live_keeps (f := fun s => if s.lif.line = .stuck then s.onLif (Lif.dominantFor 1600) else s.stuckSeen)
      (.ite _ (fun _ => s.keeps_onLif _) fun _ => s.keeps_stuckSeen)
  | lineClear => exact live_keeps (.ite _ (fun _ => s.keeps_stuckCleared) fun _ => .refl s)
  | waitProbeRunOut => exact live_keeps (.ite _ (fun _ => s.keeps_waitRunOut) fun _ => .refl s)
  | copyTimerExpiry => exact live_keeps (.ite _ (fun _ => s.keeps_copyFailure _) fun _ => .refl s)
  | dataBit gap pulse => exact execDataBit_keeps gap pulse s
  | bitDrive => exact execBitDrive_keeps s
  | quietCountReset pulse => exact execQuietCountReset_keeps pulse s
  | transactionOpen => exact ⟨_, rfl, s.keeps_openTransaction⟩
  | sckRisingEdge sdi => exact ⟨_, rfl, s.keeps_sckEdge sdi⟩

/-- A step keeps the laws, whether it carries out a command or a quantum passes. -/
theorem step_keeps {s t : State} (h : step s = .next t) : ∃ rest, ({ s with pending := rest } : State).Keeps t := by
  unfold step at h
  split at h
  · cases h
    exact ⟨s.pending, s.keeps_tick⟩
  · rename_i c rest _
    obtain ⟨u, hu, hk⟩ := exec_keeps c { s with pending := rest }
    rw [h] at hu
    cases hu
    exact ⟨rest, hk⟩

/-! ### The statements -/

/-- Settles O2: every arm of `exec` is a next state, and no operation touches the queue of commands. -/
theorem everyCommandAnswersNext : Obligations.EveryCommandAnswersNext := fun c s =>
  let ⟨t, ht, hk⟩ := exec_keeps c s
  ⟨t, ht, hk.pending⟩

/-- Settles O21: notices reach the queue by posts alone, and the end of a STATUS or FETCH reply keeps the law too. -/
theorem everyStepKeepsTheNoticeLaw : Obligations.EveryStepKeepsTheNoticeLaw := fun _ _ hs h =>
  let ⟨_, hk⟩ := step_keeps h
  hk.notices hs

/-- Settles O55: every edit keeps the sum of R4, and an install makes it 96. -/
theorem everyStepKeepsThePoolLaw : Obligations.EveryStepKeepsThePoolLaw := fun _ _ hs h =>
  let ⟨_, hk⟩ := step_keeps h
  hk.pool hs

/-- Settles O56: an advance ends in a lawful record, and an install admits no other. -/
theorem everyStepKeepsTheTableLaw : Obligations.EveryStepKeepsTheTableLaw := fun _ _ hs h =>
  let ⟨_, hk⟩ := step_keeps h
  hk.table hs

/-- Settles O57: the station goes out of step only with its table discarded, and no edit is made there. -/
theorem everyStepKeepsTheOutOfStepLaw : Obligations.EveryStepKeepsTheOutOfStepLaw := fun _ _ hs h =>
  let ⟨_, hk⟩ := step_keeps h
  hk.outOfStep hs

/-- Settles O58: SUBMIT checks what it appends, the take finds nothing on the line, and the eighth try removes. -/
theorem everyStepKeepsTheRequestLaw : Obligations.EveryStepKeepsTheRequestLaw := fun _ _ hs h =>
  let ⟨_, hk⟩ := step_keeps h
  hk.requests hs

/-- Settles O60: the log is appended to below 24 entries, and a source takes in a hailer other than itself. -/
theorem everyStepKeepsTheCopyLaw : Obligations.EveryStepKeepsTheCopyLaw := fun _ _ hs h =>
  let ⟨_, hk⟩ := step_keeps h
  hk.copy hs

end Sys2Proof.Machine
end

section
/-! SUPPORT. What the operations behind the line leave as it is: the Line Interface, the station number, the slots reported
and whether a frame is sent without a fault, taken together as one view of the state. -/

namespace Sys2Proof.Machine

/-- An attempt on the line has found no fault yet. -/
def Fe.sends (f : Fe) : Bool := f.tx.any fun a => !a.faulted

/-- What the law of the line drive reads. -/
def State.lineView (s : State) : Lif × Station × List SlotReading × Bool := (s.lif, s.hp.station, s.fe.slots, s.fe.sends)

theorem State.lineView_eq_iff {s t : State} :
    t.lineView = s.lineView ↔
      t.lif = s.lif ∧ t.hp.station = s.hp.station ∧ t.fe.slots = s.fe.slots ∧ t.fe.sends = s.fe.sends := by
  simp [State.lineView]

/-! ### Updates of one block -/

@[simp] theorem State.onTc_lineView (f : Tc → Tc) (s : State) : (s.onTc f).lineView = s.lineView := rfl
@[simp] theorem State.onZtu_lineView (f : Ztu → Ztu) (s : State) : (s.onZtu f).lineView = s.lineView := rfl
@[simp] theorem State.onCu_lineView (f : Cu → Cu) (s : State) : (s.onCu f).lineView = s.lineView := rfl
@[simp] theorem State.onRu_lineView (f : Ru → Ru) (s : State) : (s.onRu f).lineView = s.lineView := rfl
@[simp] theorem State.onPins_lineView (f : Pins → Pins) (s : State) : (s.onPins f).lineView = s.lineView := rfl

/-- An update of the Frame Engine that keeps the slots and the attempt. -/
@[simp] theorem State.onFe_lineView {f : Fe → Fe} {s : State} (h1 : ∀ g, (f g).slots = g.slots)
    (h2 : ∀ g, ((f g).tx.any fun a => !a.faulted) = g.tx.any fun a => !a.faulted) : (s.onFe f).lineView = s.lineView := by
  simp only [State.lineView, Fe.sends, State.onFe_lif, State.onFe_hp, State.onFe_fe, h1, h2]

theorem State.onHp_lineView {f : Hp → Hp} {s : State} (h : (f s.hp).station = s.hp.station) :
    (s.onHp f).lineView = s.lineView := by
  simp [State.lineView, h]

@[simp] theorem State.post_lineView (n : Notice) (s : State) : (s.post n).lineView = s.lineView :=
  State.onHp_lineView (Hp.post_station _ _)

@[simp] theorem State.postAll_lineView (ns : List Notice) (s : State) : (s.postAll ns).lineView = s.lineView := by
  simp [State.lineView]

@[simp] theorem State.postEither_lineView (xs ys : List Notice) (s : State) :
    (s.postEither xs ys).lineView = s.lineView := by
  simp [State.postEither_eq, State.lineView]

@[simp] theorem Fe.withdraw_tx_any (src : Source) (f : Fe) :
    ((f.withdraw src).tx.any fun a => !a.faulted) = f.tx.any fun a => !a.faulted := by
  rw [Fe.withdraw_tx, Option.any_map]
  refine congrArg (fun p => f.tx.any p) (funext fun a => ?_)
  split <;> rfl

/-! ### Operations shared by the blocks -/

@[simp] theorem State.setState_lineView (x : StationState) (s : State) : (s.setState x).lineView = s.lineView := rfl
@[simp] theorem State.armRoll_lineView (use : RollUse) (b : Bool) (s : State) : (s.armRoll use b).lineView = s.lineView := rfl
@[simp] theorem State.discardTable_lineView (s : State) : s.discardTable.lineView = s.lineView := rfl
@[simp] theorem State.setTable_lineView (e : EditResult) (s : State) : (s.setTable e).lineView = s.lineView := rfl
@[simp] theorem State.setHold_lineView (s : State) : s.setHold.lineView = s.lineView := rfl
@[simp] theorem State.stopWait_lineView (s : State) : s.stopWait.lineView = s.lineView := rfl
@[simp] theorem State.syncWait_lineView (b : Bool) (s : State) : (s.syncWait b).lineView = s.lineView := rfl
@[simp] theorem State.restartWait_lineView (s : State) : s.restartWait.lineView = s.lineView := rfl

@[simp] theorem State.enterHailing_lineView (s : State) : s.enterHailing.lineView = s.lineView := by
  simp [State.enterHailing]

@[simp] theorem State.enterFounding_lineView (s : State) : s.enterFounding.lineView = s.lineView := by
  simp [State.enterFounding]

@[simp] theorem State.foundingAbort_lineView (s : State) : s.foundingAbort.lineView = s.lineView := by
  unfold State.foundingAbort
  split <;> simp

/-! ### The Copy Unit's source side -/

@[simp] theorem State.startStream_lineView (s : State) : s.startStream.lineView = s.lineView := by
  unfold State.startStream
  split <;> simp

@[simp] theorem State.abandonStream_lineView (s : State) : s.abandonStream.lineView = s.lineView := by
  simp [State.abandonStream]

@[simp] theorem State.closeSource_lineView (s : State) : s.closeSource.lineView = s.lineView := by
  simp [State.closeSource]

@[simp] theorem State.selectSource_lineView (h : Station) (roll : Roll) (s : State) :
    (s.selectSource h roll).lineView = s.lineView := by
  have take : (s.takeHailer h).lineView = s.lineView := by
    unfold State.takeHailer
    simp only [State.startStream_lineView]
    split <;> simp
  unfold State.selectSource
  split
  · rfl
  · split
    · exact take
    · rfl

@[simp] theorem State.completeStream_lineView (s : State) : s.completeStream.lineView = s.lineView := by
  simp [State.completeStream]

@[simp] theorem State.nextPart_lineView (i : Nat) (s : State) : (s.nextPart i).lineView = s.lineView := by
  simp [State.nextPart]

@[simp] theorem State.copyFrameDone_lineView (s : State) : s.copyFrameDone.lineView = s.lineView := by
  unfold State.copyFrameDone
  split
  · simp
  · split
    · rfl
    · split <;> simp
    · split <;> simp

@[simp] theorem State.copyRoll_lineView (roll : Roll) (s : State) : (s.copyRoll roll).lineView = s.lineView := by
  unfold State.copyRoll
  split_ifs <;> simp

/-! ### The Request Unit -/

@[simp] theorem State.ruReport_lineView (turn : Turn) (c : EditCause) (e : EditResult) (s : State) :
    (s.ruReport turn c e).1.lineView = s.lineView := by
  unfold State.ruReport
  split <;> simp

@[simp] theorem State.cancelRequests_lineView (why : Reason) (s : State) : (s.cancelRequests why).lineView = s.lineView := by
  simp [State.cancelRequests]

/-! ### The Turn Controller -/

@[simp] theorem State.lagEvent_lineView (r : LagReason) (s : State) : (s.lagEvent r).lineView = s.lineView := by
  unfold State.lagEvent State.afterLag State.loseTickets
  simp only
  split <;> simp

@[simp] theorem State.duplicateLag_lineView (s : State) : s.duplicateLag.lineView = s.lineView := by
  simp [State.duplicateLag]

@[simp] theorem State.evict_lineView (e : StationSet) (turn : Turn) (s : State) :
    (s.evict e turn).1.lineView = s.lineView := by
  simp [State.evict]

@[simp] theorem State.closureEffects_lineView (c : ClosureRecord) (s : State) :
    (s.closureEffects c).lineView = s.lineView := by
  unfold State.closureEffects State.leaveGroup
  simp only [State.restartWait_lineView]
  split <;> simp

@[simp] theorem State.closeRecord_lineView (c : ClosureRecord) (s : State) : (s.closeRecord c).lineView = s.lineView := by
  unfold State.closeRecord
  split
  · simp
  · simp only
    split_ifs <;> simp

@[simp] theorem State.takeClosure_lineView (s : State) : s.takeClosure.lineView = s.lineView := by
  unfold State.takeClosure
  split
  · split <;> simp
  · rfl

@[simp] theorem State.orderRoll_lineView (roll : Roll) (s : State) : (s.orderRoll roll).lineView = s.lineView := by
  unfold State.orderRoll
  split
  · rfl
  · simp only
    split_ifs <;> simp

@[simp] theorem State.closeBefore_lineView (f : Frame) (s : State) : (s.closeBefore f).lineView = s.lineView := by
  unfold State.closeBefore
  split
  · split <;> simp
  · rfl

@[simp] theorem State.membershipChange_lineView (op : OrderOp) (own : Bool) (s : State) :
    (s.membershipChange op own).lineView = s.lineView := by
  unfold State.membershipChange State.enterLeaving
  split
  · split <;> simp
  · rfl

@[simp] theorem State.applyFrame_lineView (f : Frame) (op : OrderOp) (own : Option Source) (s : State) :
    (s.applyFrame f op own).lineView = s.lineView := by
  unfold State.applyFrame
  simp only
  split <;> simp

@[simp] theorem State.recogniseRepeat_lineView (f : Frame) (s : State) : (s.recogniseRepeat f).lineView = s.lineView := by
  unfold State.recogniseRepeat
  split
  · split <;> simp
  · simp

@[simp] theorem State.orderInStep_lineView (f : Frame) (op : OrderOp) (own : Option Source) (s : State) :
    (s.orderInStep f op own).lineView = s.lineView := by
  unfold State.orderInStep
  split
  · split <;> simp
  · simp
  · simp
  · rfl

@[simp] theorem State.abandonJoin_lineView (k : FrameKind) (s : State) : (s.abandonJoin k).lineView = s.lineView := by
  simp [State.abandonJoin]

/-! ### The Copy Unit's requester side -/

@[simp] theorem State.copyFailure_lineView (r : CopyReason) (s : State) : (s.copyFailure r).lineView = s.lineView := by
  simp [State.copyFailure]

@[simp] theorem State.hailAnswer_lineView (roll : Roll) (s : State) : (s.hailAnswer roll).lineView = s.lineView := by
  unfold State.hailAnswer State.enterCopying
  split
  · rfl
  · split
    · simp
    · split <;> simp

@[simp] theorem State.appendLog_lineView (f : Frame) (op : OrderOp) (s : State) : (s.appendLog f op).lineView = s.lineView := by
  unfold State.appendLog
  split <;> simp

@[simp] theorem State.compareLog_lineView (f : Frame) (op : OrderOp) (turn : Turn) (empty : Bool) (s : State) :
    (s.compareLog f op turn empty).lineView = s.lineView := by
  unfold State.compareLog
  simp only
  split_ifs <;> simp

@[simp] theorem State.logFrame_lineView (f : Frame) (op : OrderOp) (s : State) : (s.logFrame f op).lineView = s.lineView := by
  unfold State.logFrame
  split
  · rfl
  · split
    · split <;> simp
    · split <;> simp

/-- The replay changes the table and the Turn Controller alone. -/
theorem State.replay_lineView {ls : List LogEntry} {s t : State} (h : s.replay ls = .done t) :
    t.lineView = s.lineView := by
  induction ls generalizing s with
  | nil => cases h; rfl
  | cons l ls ih =>
    have apply : (s.replayApply l).lineView = s.lineView := rfl
    unfold State.replay at h
    split at h
    · cases h
    · simp only at h
      split at h
      · split at h
        · cases h
        · rename_i s2 hs2
          refine (ih h).trans (Eq.trans ?_ apply)
          unfold State.replayClose at hs2
          split at hs2
          · cases hs2; rfl
          · split at hs2
            · cases hs2
            · simp only at hs2
              split at hs2
              · cases hs2
              · cases hs2
                simp only [State.onTc_lineView]
                split <;> rfl
      · exact (ih h).trans apply

@[simp] theorem State.install_lineView (s : State) : s.install.lineView = s.lineView := by
  unfold State.install
  split
  · rename_i t ht
    have h : t.lineView = s.lineView := by
      unfold State.tryInstall at ht
      split at ht
      · split at ht
        · exact (State.replay_lineView ht).trans rfl
        · cases ht
      · cases ht
    simp [State.enterJoining, h]
  · simp
  · split <;> simp

@[simp] theorem State.answerCopy_lineView (s : State) : s.answerCopy.lineView = s.lineView := by simp [State.answerCopy]

@[simp] theorem State.acceptHead_lineView (h : HeadBody) (s : State) : (s.acceptHead h).lineView = s.lineView := by
  unfold State.acceptHead
  simp only
  split_ifs <;> simp

@[simp] theorem State.copyHead_lineView (orig : Station) (body : List Byte) (s : State) :
    (s.copyHead orig body).lineView = s.lineView := by
  unfold State.copyHead
  split
  · rfl
  · split
    · rfl
    · split
      · split <;> simp
      · simp

@[simp] theorem State.copyPart_lineView (orig : Station) (body : List Byte) (s : State) :
    (s.copyPart orig body).lineView = s.lineView := by
  unfold State.copyPart
  split
  · split_ifs
    · rfl
    · simp
    · simp
    · split
      · simp
      · simp
    · split <;> simp
  · rfl

/-! ### The Frame Engine -/

@[simp] theorem State.discardFrame_lineView (s : State) : s.discardFrame.lineView = s.lineView := by
  unfold State.discardFrame
  split
  · rfl
  · simp only
    split <;> simp

@[simp] theorem State.reportTry_lineView (src : Source) (s : State) : (s.reportTry src).lineView = s.lineView := by
  have join (k : FrameKind) : (s.joinTry k).lineView = s.lineView := by
    unfold State.joinTry
    split
    all_goals
      split
      · rfl
      · split <;> simp
  cases src with
  | rept => exact State.onFe_lineView (fun _ => rfl) fun _ => rfl
  | join => exact join .join
  | hail => exact join .hail
  | copy =>
    change s.copyTry.lineView = s.lineView
    unfold State.copyTry
    split
    · rfl
    · split <;> simp
  | request => simp [State.reportTry]
  | touch =>
    simp only [State.reportTry]
    split <;> simp

/-- A counted end takes the attempt off the line and changes nothing else of the view. -/
theorem State.attemptFailed_lineView (s : State) :
    s.attemptFailed.lineView = (s.onFe fun f => { f with tx := none }).lineView := by
  unfold State.attemptFailed
  split
  · rename_i h
    simp [State.lineView, Fe.sends, h]
  · simp only
    split <;> simp

@[simp] theorem State.endFaulted_lineView (s : State) : s.endFaulted.lineView = s.lineView := by
  unfold State.endFaulted
  split
  · rename_i h
    rw [State.attemptFailed_lineView]
    cases htx : s.fe.tx with
    | none => simp [htx] at h
    | some a => simp_all [State.lineView, Fe.sends]
  · rfl

@[simp] theorem State.handFrame_lineView (f : Frame) (own : Option Attempt) (s : State) :
    (s.handFrame f own).lineView = s.lineView := by
  have order (op : OrderOp) (own : Option Source) (t : State) : (t.handOrder f op own).lineView = t.lineView := by
    unfold State.handOrder
    split
    all_goals first | exact State.orderInStep_lineView _ _ _ _ | exact State.logFrame_lineView _ _ _ | rfl | split
    all_goals simp
  have copy (own : Bool) (t : State) : (t.handCopy f own).lineView = t.lineView := by
    unfold State.handCopy
    split
    · simp
    · split <;> simp
    · split <;> simp
    · rfl
  have hail (own : Bool) (t : State) : (t.handHail f own).lineView = t.lineView := by
    unfold State.handHail
    split_ifs <;> simp
  unfold State.handFrame
  simp only
  split
  · rw [order, State.closeBefore_lineView]
  · rw [hail, State.closeBefore_lineView]
  · rw [copy, State.closeBefore_lineView]

/-- A roll handed over empties the slots, and changes nothing else of the view. -/
theorem State.handRoll_lineView (roll : Roll) (s : State) :
    (s.handRoll roll).lineView = (s.onFe Fe.endRoll).lineView := by
  unfold State.handRoll
  simp only
  split <;> simp

@[simp] theorem State.yieldLapsed_lineView (s : State) : s.yieldLapsed.lineView = s.lineView := by
  simp [State.yieldLapsed]

@[simp] theorem State.waitRunOut_lineView (s : State) : s.waitRunOut.lineView = s.lineView := by
  simp [State.waitRunOut]

@[simp] theorem State.fireTimer_lineView (s : State) : s.fireTimer.lineView = s.lineView := by
  unfold State.fireTimer
  split_ifs <;> simp

/-! ### The Host Port -/

@[simp] theorem State.commit_lineView (c : HostCmd) (s : State) : ((s.reply c).commit c).lineView = s.lineView := by
  have reply : (s.reply c).state.lineView = s.lineView := by
    cases c with
    | configure limit options =>
      change (s.configureReply limit options).state.lineView = s.lineView
      unfold State.configureReply
      split_ifs <;> rfl
    | join =>
      change s.joinReply.state.lineView = s.lineView
      unfold State.joinReply
      split
      · exact s.enterHailing_lineView
      · rfl
    | fetch =>
      change s.fetchReply.state.lineView = s.lineView
      unfold State.fetchReply
      split <;> rfl
    | readZone zone =>
      change (s.readZoneReply zone).state.lineView = s.lineView
      unfold State.readZoneReply
      split <;> rfl
    | _ => rfl
  exact (State.onHp_lineView rfl).trans reply

@[simp] theorem State.takeCommand_lineView (c : HostCmd) (s : State) : (s.takeCommand c).lineView = s.lineView := by
  unfold State.takeCommand
  split
  · rfl
  · split <;> simp

@[simp] theorem State.endReply_lineView (which : HostCmd → Bool) (s : State) : (s.endReply which).lineView = s.lineView := by
  unfold State.endReply
  split
  · rfl
  · split
    · rfl
    · split
      · exact State.onHp_lineView (Hp.replyEnded_station _ _)
      · rfl

@[simp] theorem State.sckEdge_lineView (sdi : Bool) (s : State) : (s.sckEdge sdi).lineView = s.lineView := by
  unfold State.sckEdge
  split
  · rfl
  · split
    · refine State.onHp_lineView ?_
      simp only
      split
      · exact Hp.replyEnded_station _ _
      · rfl
    · simp only
      split
      · simp
      · rfl

@[simp] theorem State.openTransaction_lineView (s : State) : s.openTransaction.lineView = s.lineView := by
  unfold State.openTransaction
  split
  · rfl
  · split <;> rfl

end Sys2Proof.Machine
end

section
/-! SUPPORT. The law of the line drive through every operation on the line, and the statement O59. -/

namespace Sys2Proof.Machine

/-! ### The law and what it reads -/

/-- A drive of the own frame or the own HALT, with time left of its symbol's length; no slot. -/
def Drive.held (sends : Bool) (d : Drive) : Prop :=
  0 < d.left ∧
    match d.symbol with
    | .slot => False
    | .haltSymbol => d.left ≤ 480
    | .openSymbol => d.left ≤ 200 ∧ sends = true
    | .bit b => d.left ≤ (if b then 80 else 40) ∧ sends = true

/-- A drive of the own slot `self`, in its first quantum, with the slots reported so far (R150). -/
def Lif.ownSlotDriven (self : Station) (slots : List SlotReading) (l : Lif) (d : Drive) : Prop :=
  let begins : Int := 80 * ((self.val : Int) - slots.length)
  let now : Int := l.slotAt + l.sinceReport
  0 < d.left ∧ d.symbol = .slot ∧ l.line = .busy .roll ∧ slots.length ≤ self.val ∧ begins ≤ now ∧
    now + d.left ≤ begins + 40

/-- The law of the drive: a drive is of the frame or the HALT, or of the own slot. -/
theorem State.driveLaw_iff (s : State) :
    s.driveLaw ↔
      ∀ d, s.lif.drive = some d → d.held s.fe.sends ∨ s.lif.ownSlotDriven s.hp.station s.fe.slots d := by
  unfold State.driveLaw
  rcases s.lif.drive with _ | ⟨x, n⟩
  · simp
  · cases x <;> simp [Drive.held, Lif.ownSlotDriven, Fe.sends]

/-- The law reads the view of the line alone. -/
theorem State.driveLaw.of_lineView {s t : State} (h : s.driveLaw) (hv : t.lineView = s.lineView) : t.driveLaw := by
  obtain ⟨hlif, hstation, hslots, hsends⟩ := State.lineView_eq_iff.1 hv
  rw [State.driveLaw_iff] at h ⊢
  rwa [hlif, hstation, hslots, hsends]

theorem State.driveLaw_of_no_drive {s : State} (h : s.lif.drive = none) : s.driveLaw := by
  rw [State.driveLaw_iff, h]
  exact fun d hd => by cases hd

/-- Only the own HALT is driven. -/
def Lif.haltOnly (l : Lif) : Prop := ∀ d, l.drive = some d → d.symbol = .haltSymbol ∧ 0 < d.left ∧ d.left ≤ 480

/-- The own HALT may go on in every state of the line. -/
theorem State.driveLaw_of_haltOnly {s : State} (h : s.lif.haltOnly) : s.driveLaw := by
  rw [State.driveLaw_iff]
  rintro ⟨x, n⟩ hd
  obtain ⟨rfl, h0, hn⟩ := h _ hd
  exact .inl ⟨h0, hn⟩

/-- Outside the roll window the own slot is not driven, so a drive is one of the frame or the HALT. -/
theorem State.driveLaw.held {s : State} (h : s.driveLaw) (hl : s.lif.line ≠ .busy .roll) {d : Drive}
    (hd : s.lif.drive = some d) : d.held s.fe.sends := by
  rcases (State.driveLaw_iff s).1 h d hd with h | ⟨-, -, hr, -⟩
  · exact h
  · exact absurd hr hl

/-- With no slot driven the line state, the slots and the level do not matter. -/
theorem State.driveLaw.of_drive_eq {s t : State} (h : s.driveLaw) (hl : s.lif.line ≠ .busy .roll)
    (hd : t.lif.drive = s.lif.drive) (hs : t.fe.sends = s.fe.sends) : t.driveLaw := by
  rw [State.driveLaw_iff, hd, hs]
  exact fun d hd => .inl (h.held hl hd)

/-! ### Time and edges (R144, R145, R147) -/

theorem Lif.haltOnly.pass {l : Lif} (h : l.haltOnly) (t : Nat) : (l.pass t).haltOnly := by
  intro d hd
  obtain ⟨hd, h0⟩ := Lif.pass_drive_some hd
  obtain ⟨hx, -, hn⟩ := h _ hd
  exact ⟨hx, h0, by simp only at hn; omega⟩

/-- Time that passes brings a drive nearer to its end, and the roll window on by as much. -/
theorem State.driveLaw.pass {s : State} (h : s.driveLaw) (t : Nat) : (s.onLif (Lif.pass t)).driveLaw := by
  rw [State.driveLaw_iff] at h ⊢
  rintro ⟨x, n⟩ hd
  obtain ⟨hd, h0⟩ := Lif.pass_drive_some hd
  rcases h _ hd with hh | ⟨-, hx, hl, hk, hb, he⟩
  · obtain ⟨-, hh⟩ := hh
    refine .inl ⟨h0, ?_⟩
    cases x <;> simp only at hh ⊢
    · exact ⟨by omega, hh.2⟩
    · exact ⟨by omega, hh.2⟩
    · omega
  · refine .inr ⟨h0, hx, hl, hk, ?_, ?_⟩
    · simp only [State.onLif_lif, State.onLif_hp, State.onLif_fe, Lif.pass_slotAt, Lif.pass_sinceReport] at hb ⊢
      omega
    · simp only [State.onLif_lif, State.onLif_hp, State.onLif_fe, Lif.pass_slotAt, Lif.pass_sinceReport] at he ⊢
      omega

theorem State.driveLaw.edge {s : State} (h : s.driveLaw) (low : Bool) : (s.onLif (Lif.edge low)).driveLaw := by
  have e : s.lif.edge low = if s.lif.low = low then s.lif else { s.lif with low := low, lasted := 0 } := rfl
  rw [State.driveLaw_iff] at h ⊢
  rw [State.onLif_lif, e]
  split <;> exact h

theorem State.driveLaw.lastingTo {s : State} (h : s.driveLaw) (n : Nat) : (s.onLif (Lif.lastingTo n)).driveLaw :=
  h.pass _

theorem State.driveLaw.dominantFor {s : State} (h : s.driveLaw) (n : Nat) : (s.onLif (Lif.dominantFor n)).driveLaw :=
  (h.edge true).lastingTo n

theorem State.driveLaw.pulse {s : State} (h : s.driveLaw) (n : Nat) : (s.onLif (Lif.pulse n)).driveLaw :=
  (h.dominantFor n).edge false

/-- Of the drives the own HALT alone goes on. -/
theorem State.driveLaw.haltAlone {s : State} (h : s.driveLaw) : s.lif.haltAlone.haltOnly := by
  rintro d hd
  rw [Lif.haltAlone, Option.filter_eq_some_iff, beq_iff_eq] at hd
  obtain ⟨hd, hx⟩ := hd
  rcases (State.driveLaw_iff s).1 h d hd with ⟨h0, hh⟩ | ⟨-, hs, -⟩
  · rw [hx] at hh
    exact ⟨hx, h0, hh⟩
  · rw [hx] at hs
    cases hs

theorem Lif.haltOnly_drives_halt (l : Lif) : (l.drives .haltSymbol).haltOnly := by
  rintro d hd
  cases hd
  exact ⟨rfl, by decide, le_refl _⟩

/-! ### The sender's tests (R171 to R173) -/

theorem State.faultFound_haltOnly (dup : Bool) (s : State) : (s.faultFound dup).lif.haltOnly := by
  unfold State.faultFound
  exact Lif.haltOnly_drives_halt _

theorem State.startFault_haltOnly (s : State) : s.startFault.lif.haltOnly := State.faultFound_haltOnly false _

theorem State.loseArbitration_lif (s : State) : s.loseArbitration.lif = s.lif.haltAlone := rfl

theorem State.driveLaw.testFailed {s : State} (h : s.driveLaw) (x : Symbol) (late : Bool) :
    (s.testFailed x late).driveLaw := by
  refine State.driveLaw_of_haltOnly ?_
  rcases s.testFailed_cases x late with ⟨e, -⟩ | ⟨dup, e, -⟩
  · rw [e, State.loseArbitration_lif]
    exact h.haltAlone
  · rw [e]
    exact s.faultFound_haltOnly dup

theorem State.driveLaw.senderFault {s : State} (h : s.driveLaw) : s.senderFault.driveLaw := by
  unfold State.senderFault
  split
  · exact State.driveLaw_of_haltOnly (s.faultFound_haltOnly false)
  · exact h

theorem State.driveLaw.quietPassed {s : State} (h : s.driveLaw) (t : Nat) : (s.quietPassed t).driveLaw := by
  rcases s.quietPassed_cases t with e | ⟨n, -, -, e⟩
  · rw [e]; exact h.pass t
  · rw [e]; exact (State.driveLaw_of_haltOnly (State.startFault_haltOnly _)).pass _

theorem State.driveLaw.stretchPassed {s : State} (h : s.driveLaw) (g : Nat) : (s.stretchPassed g).driveLaw := by
  unfold State.stretchPassed
  split
  · exact h
  · exact (h.quietPassed _).edge true

theorem State.driveLaw.pulseTested {s : State} (h : s.driveLaw) (len : Nat) : (s.pulseTested len).driveLaw := by
  unfold State.pulseTested
  split
  · exact h
  · split_ifs
    · exact State.driveLaw_of_haltOnly s.startFault_haltOnly
    · exact (h.dominantFor _).testFailed _ _
    · exact (h.dominantFor _).testFailed _ _
    · exact h

theorem State.driveLaw.pulseFault {s : State} (h : s.driveLaw) (len : Nat) : (s.pulseFault len).driveLaw :=
  ((h.pulseTested len).dominantFor len).senderFault

theorem State.driveLaw.pulsePassed {s : State} (h : s.driveLaw) (len : Nat) : (s.pulsePassed len).driveLaw :=
  (h.pulseTested len).pulse len

/-! ### The line state through the tests -/

@[simp] theorem State.faultFound_line (dup : Bool) (s : State) : (s.faultFound dup).lif.line = s.lif.line := by
  unfold State.faultFound
  cases dup <;> rfl

@[simp] theorem State.startFault_line (s : State) : s.startFault.lif.line = s.lif.line := State.faultFound_line false _

@[simp] theorem State.senderFault_line (s : State) : s.senderFault.lif.line = s.lif.line := by
  unfold State.senderFault
  split <;> simp

@[simp] theorem State.testFailed_line (x : Symbol) (late : Bool) (s : State) :
    (s.testFailed x late).lif.line = s.lif.line := by
  rcases s.testFailed_cases x late with ⟨e, -⟩ | ⟨dup, e, -⟩
  · rw [e, State.loseArbitration_lif, Lif.haltAlone_line]
  · rw [e, State.faultFound_line]

@[simp] theorem State.quietPassed_line (t : Nat) (s : State) : (s.quietPassed t).lif.line = s.lif.line := by
  rcases s.quietPassed_cases t with e | ⟨n, -, -, e⟩ <;> simp [e]

@[simp] theorem State.stretchPassed_line (g : Nat) (s : State) : (s.stretchPassed g).lif.line = s.lif.line := by
  unfold State.stretchPassed
  split <;> simp

@[simp] theorem State.pulseTested_line (len : Nat) (s : State) : (s.pulseTested len).lif.line = s.lif.line := by
  unfold State.pulseTested
  split
  · rfl
  · split_ifs <;> simp

@[simp] theorem State.pulsePassed_line (len : Nat) (s : State) : (s.pulsePassed len).lif.line = s.lif.line := by
  simp [State.pulsePassed]

/-! ### The line state, and rolls cut short -/

/-- Outside the roll window the line state may change. -/
theorem State.driveLaw.setLine {s : State} (h : s.driveLaw) (hl : s.lif.line ≠ .busy .roll) (x : LineState) :
    (s.setLine x).driveLaw := h.of_drive_eq hl rfl rfl

theorem State.driveLaw.leaveIdle {s : State} (h : s.driveLaw) : s.leaveIdle.driveLaw := by
  unfold State.leaveIdle
  split
  · rename_i hl
    exact (h.setLine (by simp [hl]) _).of_lineView (State.onFe_lineView (fun _ => rfl) fun _ => rfl)
  · exact h

theorem State.leaveIdle_line_ne {s : State} (hl : s.lif.line ≠ .busy .roll) : s.leaveIdle.lif.line ≠ .busy .roll := by
  unfold State.leaveIdle
  split
  · simp
  · exact hl

@[simp] theorem State.cutRoll_lif (s : State) : s.cutRoll.lif = s.lif := by
  unfold State.cutRoll
  split
  · exact (State.lineView_eq_iff.1 (s.handRoll_lineView .unreadable)).1
  · rfl

@[simp] theorem State.cutRoll_sends (s : State) : s.cutRoll.fe.sends = s.fe.sends := by
  unfold State.cutRoll
  split
  · exact congrArg (fun v => v.2.2.2) (s.handRoll_lineView .unreadable)
  · rfl

/-- A roll handed over outside the roll window. -/
theorem State.driveLaw.handRoll {s : State} (h : s.driveLaw) (hl : s.lif.line ≠ .busy .roll) (roll : Roll) :
    (s.handRoll roll).driveLaw :=
  h.of_drive_eq hl (congrArg (fun v => v.1.drive) (s.handRoll_lineView roll))
    (congrArg (fun v => v.2.2.2) (s.handRoll_lineView roll))

theorem State.driveLaw.cutRoll {s : State} (h : s.driveLaw) (hl : s.lif.line ≠ .busy .roll) : s.cutRoll.driveLaw :=
  h.of_drive_eq hl (by rw [State.cutRoll_lif]) s.cutRoll_sends

/-! ### Pulses -/

theorem State.driveLaw.openSeen {s : State} (h : s.driveLaw) (hl : s.lif.line ≠ .busy .roll) : s.openSeen.driveLaw := by
  have hl' : s.leaveIdle.cutRoll.lif.line ≠ .busy .roll := by
    rw [State.cutRoll_lif]
    exact State.leaveIdle_line_ne hl
  exact ((h.leaveIdle.cutRoll (State.leaveIdle_line_ne hl)).setLine hl' _).of_lineView
    (State.onFe_lineView (fun _ => rfl) fun _ => rfl)

theorem State.attemptFailed_lif (s : State) : s.attemptFailed.lif = s.lif :=
  congrArg (fun v => v.1) s.attemptFailed_lineView

@[simp] theorem State.discardFrame_lif (s : State) : s.discardFrame.lif = s.lif :=
  congrArg (fun v => v.1) s.discardFrame_lineView

/-- A HALT ends every drive but its own. -/
theorem State.driveLaw.haltSeen {s : State} (h : s.driveLaw) : s.haltSeen.driveLaw := by
  have hd : ∀ x, (s.leaveIdle.cutRoll.discardFrame.attemptFailed.setLine x).lif =
      { s.leaveIdle.lif with line := x } := fun x => by
    rw [State.setLine_lif, State.attemptFailed_lif, State.discardFrame_lif, State.cutRoll_lif]
  refine State.driveLaw_of_haltOnly ?_
  change (Lif.haltAlone (s.leaveIdle.cutRoll.discardFrame.attemptFailed.setLine (.busy .haltRest)).lif).haltOnly
  rw [hd]
  exact h.leaveIdle.haltAlone

theorem State.driveLaw.damageSeen {s : State} (h : s.driveLaw) (hl : s.lif.line ≠ .busy .roll) :
    s.damageSeen.driveLaw := by
  have hl' : s.leaveIdle.cutRoll.discardFrame.lif.line ≠ .busy .roll := by
    rw [State.discardFrame_lif, State.cutRoll_lif]
    exact State.leaveIdle_line_ne hl
  exact (((h.leaveIdle.cutRoll (State.leaveIdle_line_ne hl)).of_lineView (State.discardFrame_lineView _)).setLine hl'
    _).senderFault

@[simp] theorem State.damageSeen_line (s : State) : s.damageSeen.lif.line = .unsynced := by
  simp [State.damageSeen]

theorem State.driveLaw.unsyncedPulse {s : State} (h : s.driveLaw) (hl : s.lif.line ≠ .busy .roll) (len : Nat) :
    (s.unsyncedPulse len).driveLaw := by
  unfold State.unsyncedPulse
  split
  · exact h
  · exact (h.pulse len).haltSeen
  · exact (h.pulse len).openSeen (by simpa using hl)
  · exact h.pulse len

theorem State.driveLaw.gapDamaged {s : State} (h : s.driveLaw) (hl : s.lif.line ≠ .busy .roll) (g : Nat) :
    (s.gapDamaged g).driveLaw := (h.stretchPassed g).damageSeen (by simpa using hl)

theorem State.driveLaw.framePulse {s : State} (h : s.driveLaw) (hl : s.lif.line ≠ .busy .roll) (len : Nat) :
    (s.framePulse len).driveLaw := by
  have hl' : (s.pulsePassed len).lif.line ≠ .busy .roll := by simpa using hl
  unfold State.framePulse
  split
  · exact h
  · exact h
  · exact (h.pulsePassed len).haltSeen
  · exact (h.pulsePassed len).of_lineView (State.onFe_lineView (fun _ => rfl) fun _ => rfl)
  · exact (h.pulsePassed len).damageSeen hl'
  · exact (h.pulsePassed len).damageSeen hl'

theorem State.driveLaw.frameStretchPulse {s : State} (h : s.driveLaw) (hl : s.lif.line ≠ .busy .roll) (g len : Nat) :
    (s.frameStretchPulse g len).driveLaw := by
  unfold State.frameStretchPulse
  split_ifs
  · exact (h.gapDamaged hl g).unsyncedPulse (by simp [State.gapDamaged]) len
  · exact (h.stretchPassed g).framePulse (by simpa using hl) len
  · exact h

theorem State.driveLaw.startPulse {s : State} (h : s.driveLaw) (hl : s.lif.line ≠ .busy .roll) (len : Nat) :
    (s.startPulse len).driveLaw := by
  have hl' : (s.pulsePassed len).lif.line ≠ .busy .roll := by simpa using hl
  unfold State.startPulse
  split
  · exact h
  · exact h
  · exact (h.pulsePassed len).haltSeen
  · exact (h.pulsePassed len).openSeen hl'
  · exact (h.pulsePassed len).damageSeen hl'
  · exact (h.pulsePassed len).damageSeen hl'

theorem State.driveLaw.pulseEnded {s : State} (h : s.driveLaw) (gap : Option Nat) (len : Nat) :
    (s.pulseEnded gap len).driveLaw := by
  unfold State.pulseEnded
  split
  · rename_i hl
    split
    · exact h.frameStretchPulse (by simp [hl]) _ len
    · exact h.framePulse (by simp [hl]) len
  · split
    · exact (h.pulse len).haltSeen
    · exact h
  · rename_i hl
    exact h.unsyncedPulse (by simp [hl]) len
  · split
    · exact h
    · exact h.pulse len
  · exact h.startPulse (by assumption) len

/-- STUCK releases LTX, and nothing after it drives. -/
theorem State.stuckSeen_drive (s : State) : s.stuckSeen.lif.drive = none := by
  unfold State.stuckSeen
  simp only [State.setLine_lif, State.post_lif, State.cutRoll_lif, State.discardFrame_lif, State.attemptFailed_lif,
    State.onLif_lif]

/-! ### IDLE -/

theorem State.driveLaw.lineIdle {s : State} (h : s.driveLaw) (hl : s.lif.line ≠ .busy .roll) : s.lineIdle.driveLaw := by
  have hv := s.endFaulted_lineView
  have hl' : s.endFaulted.lif.line ≠ .busy .roll := by
    rw [(State.lineView_eq_iff.1 hv).1]
    exact hl
  exact ((h.of_lineView hv).setLine hl' .idle).of_lineView (State.onFe_lineView (fun _ => rfl) fun _ => rfl)

theorem State.driveLaw.stuckCleared {s : State} (h : s.driveLaw) (hl : s.lif.line ≠ .busy .roll) :
    s.stuckCleared.driveLaw := by
  have h1 : ((s.onLif (Lif.edge false)).onLif (Lif.lastingTo 1920)).driveLaw := (h.edge false).lastingTo 1920
  have h2 := (h1.of_lineView (State.post_lineView { kind := .lineClear } _)).of_lineView (State.setHold_lineView _)
  exact h2.lineIdle (by simpa using hl)

/-! ### The CLOSE and the roll window (R149, R150) -/

theorem Lif.haltOnly.closed {s : State} (h : s.driveLaw) : s.lif.closed.haltOnly := h.haltAlone

/-- After the CLOSE the frame's handling changes nothing of the Line Interface. -/
theorem State.acceptedFrame_lif (f : Frame) (r : Reception) (s : State) : (s.acceptedFrame f r).lif = s.lif := by
  have hand (own : Option Attempt) (t : State) : (t.handFrame f own).lif = t.lif :=
    congrArg (fun v => v.1) (t.handFrame_lineView f own)
  have sent (o : Option Attempt) (t : State) :
      (match o with | none => t | some a => t.attemptSent a).lif = t.lif := by
    cases o <;> rfl
  unfold State.acceptedFrame
  simp only
  split
  · rw [State.setHold_lif, hand]
    exact sent _ _
  · rw [hand]
    exact sent _ _

theorem State.driveLaw.closeSeen {s : State} (h : s.driveLaw) (r : Reception) : (s.closeSeen r).driveLaw := by
  have h1 := h.quietPassed (140 - s.lif.lasted)
  have h2 : (if (s.quietPassed (140 - s.lif.lasted)).underTest.isSome then
      (s.quietPassed (140 - s.lif.lasted)).senderFault else s.quietPassed (140 - s.lif.lasted)).driveLaw := by
    split
    · exact h1.senderFault
    · exact h1
  refine State.driveLaw_of_haltOnly ?_
  unfold State.closeSeen
  simp only
  split
  · rw [State.acceptedFrame_lif]
    exact Lif.haltOnly.closed h2
  · have ended (t : State) : (if t.sending.isSome then t.attemptEnded else t).lif = t.lif := by
      split <;> rfl
    rw [State.discardFrame_lif, ended]
    exact Lif.haltOnly.closed h2

theorem slotDue_ge (pulses : List SlotPulse) : 80 ≤ slotDue pulses := by
  have key : ∀ (l : List SlotPulse) (d : Int),
      d ≤ l.foldl (fun due p => max due (p.start + ((if p.ended then min p.len 56 else 56 : Nat) : Int))) d := by
    intro l
    induction l with
    | nil => exact fun d => le_refl d
    | cons p l ih => exact fun d => (le_max_left _ _).trans (ih _)
  exact key pulses 80

/-- A slot is reported once it has ended. -/
theorem slotReport_time {k : Nat} {pos : Int} {held : Option Nat} {spoilt : Bool} {runs : List Nat} {r : SlotReport}
    (h : slotReport k pos held spoilt runs = some r) : 80 ≤ pos + r.time := by
  unfold slotReport at h
  simp only [Option.ite_none_right_eq_some, Option.some.injEq] at h
  obtain ⟨⟨hsum, -⟩, rfl⟩ := h
  simp only
  rw [hsum]
  exact slotDue_ge _

/-- Of the drive of the own slot nothing is left where a slot at or after it is reported. -/
theorem State.driveLaw.slotEnded {s : State} (h : s.driveLaw) {r : SlotReport} (ht : 80 ≤ s.lif.slotAt + r.time) :
    (s.slotEnded s.fe.slots.length r).driveLaw := by
  have hp := h.pass (r.time - s.lif.sinceReport)
  rw [State.driveLaw_iff] at hp ⊢
  intro d hd
  rcases hp d hd with hh | ⟨h0, hx, hl, hk, hb, he⟩
  · exact .inl hh
  · simp only [State.onLif_lif, State.onLif_hp, State.onLif_fe, Lif.pass_slotAt, Lif.pass_sinceReport, Lif.pass_line]
      at hl hk hb he
    have hlt : s.fe.slots.length < s.hp.station.val := by omega
    have hstation := s.hp.station.isLt
    refine .inr ⟨h0, hx, ?_, ?_, ?_, ?_⟩
    · change (if s.fe.slots.length = 15 then LineState.busy .rest else s.lif.line) = _
      rw [if_neg (by omega)]
      exact hl
    · change (s.fe.slots ++ [r.reading]).length ≤ s.hp.station.val
      simp only [List.length_append, List.length_singleton]
      omega
    · change (80 : Int) * (s.hp.station.val - ((s.fe.slots ++ [r.reading]).length : Nat)) ≤
        s.lif.slotAt + r.time - 80 + ((s.lif.sinceReport - r.time : Nat) : Int)
      simp only [List.length_append, List.length_singleton]
      omega
    · change s.lif.slotAt + r.time - 80 + ((s.lif.sinceReport - r.time : Nat) : Int) + d.left ≤
        (80 : Int) * (s.hp.station.val - ((s.fe.slots ++ [r.reading]).length : Nat)) + 40
      simp only [List.length_append, List.length_singleton]
      omega

/-! ### One quantum without a command -/

theorem State.driveLaw.fireLine {s : State} (h : s.driveLaw) : s.fireLine.driveLaw := by
  unfold State.fireLine
  split
  · split
    · exact State.driveLaw_of_no_drive s.stuckSeen_drive
    · split
      · exact h.of_lineView s.yieldLapsed_lineView
      · rename_i hl
        exact (h.lastingTo 1920).lineIdle (by simp [hl])
      · rename_i hl
        exact h.stuckCleared (by simp [hl])
      · exact h
  · exact h

theorem State.driveLaw.fireTimer {s : State} (h : s.driveLaw) : s.fireTimer.driveLaw := h.of_lineView s.fireTimer_lineView

theorem State.driveLaw.tick {s : State} (h : s.driveLaw) : s.tick.driveLaw := by
  have h1 : s.countQuantum.driveLaw := by
    refine (h.quietPassed 40).of_lineView ?_
    simp [State.countQuantum]
  have h2 : ({ s.countQuantum with freeUsed := s.countQuantum.freeUsed + 1 } : State).driveLaw := h1
  unfold State.tick
  split
  · exact h
  · simp only
    split
    · split
      · exact h2.fireLine.fireTimer
      · exact h2.fireTimer.fireLine
    · exact h1.fireLine.fireTimer

/-! ### Commands that drive (R147, R150, R170) -/

theorem State.sending_isSome (s : State) : s.sending.isSome = s.fe.sends := by
  unfold State.sending Fe.sends
  cases s.fe.tx with
  | none => rfl
  | some a => cases h : a.faulted <;> simp [h]

/-- What is compared with the line is sent by an attempt without a fault. -/
theorem State.sends_of_underTest {s : State} {x : Symbol} (h : s.underTest = some x) : s.fe.sends = true := by
  rw [← State.sending_isSome]
  unfold State.underTest at h
  cases hs : s.sending with
  | none => simp [hs] at h
  | some a => rfl

theorem State.driveLaw.take {s : State} (h : s.driveLaw) (src : Source) : (s.take src).driveLaw := by
  unfold State.take
  simp only
  split
  · exact h
  · rw [State.driveLaw_iff]
    rintro d hd
    cases hd
    exact .inl ⟨by decide, le_refl _, rfl⟩

theorem driveLaw_bitDriven {s : State} {b : Bool} (h : s.underTest = some (.bit b)) (l : Lif → Lif) :
    ((s.onFe Fe.askBit).onLif fun x => (l x).drives (.bit b)).driveLaw := by
  have hs : (s.onFe Fe.askBit).fe.sends = true := by
    rw [← State.sends_of_underTest h]
    simp only [State.onFe_fe, Fe.askBit, Fe.sends, Option.any_map]
  rw [State.driveLaw_iff]
  rintro d hd
  cases hd
  refine .inl ⟨by cases b <;> decide, ?_, hs⟩
  cases b <;> exact le_refl _

theorem driveLaw_ownSlotDriven {s : State} {t : Nat} {runs : List Nat}
    (ht : s.lif.toOwnSlot s.self s.fe.slots.length = some t) (hl : s.lif.line = .busy .roll) (f : Fe → Fe)
    (hf : (f s.fe).slots = s.fe.slots) :
    ((s.onFe f).onLif fun l => (l.atOwnSlot t runs).drives .slot).driveLaw := by
  obtain ⟨hk, hat⟩ := Lif.toOwnSlot_eq_some ht
  have e : s.lif.atOwnSlot t runs = _ := Lif.atOwnSlot_eq t runs s.lif
  rw [State.driveLaw_iff]
  rintro d hd
  cases hd
  refine .inr ⟨by decide, rfl, ?_, ?_, ?_, ?_⟩
  · simpa using hl
  · change (f s.fe).slots.length ≤ s.self.val
    rw [hf]
    omega
  · change (80 : Int) * (s.self.val - ((f s.fe).slots.length : Nat)) ≤
      (s.lif.atOwnSlot t runs).slotAt + ((s.lif.atOwnSlot t runs).sinceReport : Nat)
    rw [hf, e]
    change _ ≤ s.lif.slotAt + ((s.lif.sinceReport + t : Nat) : Int)
    omega
  · change (s.lif.atOwnSlot t runs).slotAt + ((s.lif.atOwnSlot t runs).sinceReport : Nat) + ((40 : Nat) : Int) ≤
      (80 : Int) * (s.self.val - ((f s.fe).slots.length : Nat)) + 40
    rw [hf, e]
    change s.lif.slotAt + ((s.lif.sinceReport + t : Nat) : Int) + ((40 : Nat) : Int) ≤ _
    omega

/-! ### Every command -/

theorem live_driveLaw {f : State → State} {s : State} (h : s.driveLaw) (hf : (f s).driveLaw) {t : State}
    (ht : live f s = .next t) : t.driveLaw := by
  cases ht
  split
  · exact h
  · exact hf

theorem State.driveLaw.damageFault {s : State} (h : s.driveLaw) (cause : DamageCause) : (s.damageFault cause).driveLaw := by
  unfold State.damageFault
  split
  · split
    · split
      · exact (h.stretchPassed _).senderFault
      · exact h
    · exact h
  · split
    · split_ifs
      · exact h
      · exact h.pulseFault _
      · exact (h.stretchPassed _).senderFault
      · exact (h.stretchPassed _).pulseFault _
    · exact h

theorem execBitFault_driveLaw {s t : State} (h : s.driveLaw) {form : FaultForm} (ht : execBitFault form s = .next t) :
    t.driveLaw := by
  refine live_driveLaw h ?_ ht
  split
  · exact h
  · split
    · split
      · exact h.pulseFault _
      · exact (h.dominantFor _).testFailed _ _
    · split
      · split
        · exact h.pulseFault _
        · exact h
      · exact h
    · split
      · split
        · exact (h.stretchPassed _).senderFault
        · exact h
      · exact h
    · exact h.damageFault _
    · cases s.pulseDue with
      | none => exact h
      | some n => exact h.quietPassed n

theorem State.driveLaw.dominantEdge {s : State} (h : s.driveLaw) : s.dominantEdge.driveLaw := by
  unfold State.dominantEdge
  split
  · exact h
  · rename_i hl
    simp only
    split
    · exact (h.stretchPassed 0).cutRoll (by simpa using hl)
    · exact (h.stretchPassed 0).leaveIdle

theorem State.driveLaw.closeTransaction {s : State} (h : s.driveLaw) (low : Bool) : (s.closeTransaction low).driveLaw := by
  unfold State.closeTransaction
  simp only
  split
  · exact h
  · split
    · split
      · exact State.driveLaw_of_no_drive rfl
      · exact h
    · split <;> exact h

/-- Every command keeps the law of the line drive. -/
theorem exec_driveLaw {c : Instr} {s t : State} (h : s.driveLaw) (ht : exec c s = .next t) : t.driveLaw := by
  cases c with
  | pinResetAssert => cases ht; exact State.driveLaw_of_no_drive rfl
  | pinResetRelease straps low =>
    cases ht
    split
    · exact State.driveLaw_of_no_drive rfl
    · exact h
  | status => cases ht; exact h.of_lineView (s.takeCommand_lineView _)
  | statusReplyEnd => cases ht; exact h.of_lineView (s.endReply_lineView _)
  | configure limit options => cases ht; exact h.of_lineView (s.takeCommand_lineView _)
  | join => cases ht; exact h.of_lineView (s.takeCommand_lineView _)
  | submit kind tag zone mode => cases ht; exact h.of_lineView (s.takeCommand_lineView _)
  | withdraw tag => cases ht; exact h.of_lineView (s.takeCommand_lineView _)
  | fetch => cases ht; exact h.of_lineView (s.takeCommand_lineView _)
  | fetchReplyEnd => cases ht; exact h.of_lineView (s.endReply_lineView _)
  | readZone zone => cases ht; exact h.of_lineView (s.takeCommand_lineView _)
  | restart => cases ht; exact h.of_lineView (s.takeCommand_lineView _)
  | badCommand code =>
    cases ht
    split
    · exact h.of_lineView (s.takeCommand_lineView _)
    · exact h
  | transactionEnd low => cases ht; exact h.closeTransaction low
  | lineDominant => exact live_driveLaw h h.dominantEdge ht
  | openPulse pulse =>
    have ht : execOpenPulse pulse s = .next t := ht
    refine live_driveLaw h ?_ ht
    split
    · exact h.pulseEnded _ _
    · exact h
  | frameClose =>
    have ht : execFrameClose s = .next t := ht
    refine live_driveLaw h ?_ ht
    split
    · split
      · exact h.closeSeen _
      · exact h
    · exact h
  | ownSlotDrive first later =>
    have ht : execOwnSlotDrive s first later = .next t := ht
    refine live_driveLaw h ?_ ht
    split
    · split
      · rename_i hslot _ hc
        exact driveLaw_ownSlotDriven hslot hc.1 _ rfl
      · exact h
    · exact h
  | slotRead first later =>
    have ht : execSlotRead first later s = .next t := ht
    refine live_driveLaw h ?_ ht
    simp only
    split
    · rename_i r hr
      split
      · obtain ⟨runs, -, hr⟩ := Option.bind_eq_some_iff.1 hr
        exact h.slotEnded (slotReport_time hr)
      · exact h
    · exact h
  | restEnd =>
    refine live_driveLaw h ?_ ht
    split
    · rename_i hc
      have hl : (s.onLif Lif.restOver).lif.line ≠ .busy .roll := by
        change s.lif.line ≠ _
        simp [hc.1]
      have hl' : ((s.onLif Lif.restOver).handRoll (rollOf s.fe.slots)).lif.line ≠ .busy .roll := by
        rw [show ((s.onLif Lif.restOver).handRoll (rollOf s.fe.slots)).lif = (s.onLif Lif.restOver).lif from
          congrArg (fun v => v.1) (State.handRoll_lineView _ _)]
        exact hl
      exact ((h.pass _).handRoll hl _).lineIdle hl'
    · exact h
  | yieldLapse =>
    refine live_driveLaw h ?_ ht
    split
    · exact h.of_lineView s.yieldLapsed_lineView
    · exact h
  | frameTake =>
    have ht : execFrameTake s = .next t := ht
    refine live_driveLaw h ?_ ht
    split
    · exact h.take _
    · exact h
  | arbitrationLost =>
    refine live_driveLaw h ?_ ht
    split
    · exact (h.dominantFor _).testFailed _ _
    · exact h
  | bitFault form => exact execBitFault_driveLaw h ht
  | halt pulse =>
    have ht : execHalt pulse s = .next t := ht
    refine live_driveLaw h ?_ ht
    split
    · exact h.pulseEnded _ _
    · exact h
  | haltRestEnd =>
    refine live_driveLaw h ?_ ht
    split
    · rename_i hc
      exact (h.lastingTo 240).lineIdle (by simp [hc.1])
    · exact h
  | damage cause =>
    have ht : execDamage cause s = .next t := ht
    refine live_driveLaw h ?_ ht
    split
    · split
      · split
        · exact h.pulseEnded _ _
        · exact h
      · exact h
    · split
      · split
        · rename_i hc
          exact h.gapDamaged (by simp [hc.1]) _
        · exact h
      · exact h
  | syncQuiet =>
    refine live_driveLaw h ?_ ht
    split
    · rename_i hc
      exact (h.lastingTo 1920).lineIdle (by simp [hc.1])
    · exact h
  | lineStuck =>
    have ht : execLineStuck s = .next t := ht
    refine live_driveLaw h ?_ ht
    split
    · exact h.dominantFor 1600
    · exact State.driveLaw_of_no_drive s.stuckSeen_drive
  | lineClear =>
    refine live_driveLaw h ?_ ht
    split
    · rename_i hc
      exact h.stuckCleared (by simp [hc])
    · exact h
  | waitProbeRunOut =>
    refine live_driveLaw h ?_ ht
    split
    · exact h.of_lineView s.waitRunOut_lineView
    · exact h
  | copyTimerExpiry =>
    refine live_driveLaw h ?_ ht
    split
    · exact h.of_lineView (s.copyFailure_lineView _)
    · exact h
  | dataBit gap pulse =>
    have ht : execDataBit gap pulse s = .next t := ht
    refine live_driveLaw h ?_ ht
    split
    · exact h.pulseEnded _ _
    · exact h
  | bitDrive =>
    have ht : execBitDrive s = .next t := ht
    refine live_driveLaw h ?_ ht
    split
    · rename_i hu
      split
      · exact driveLaw_bitDriven hu fun l => if l.low then l else l.lastingTo 40
      · exact h
    · exact h
  | quietCountReset pulse =>
    have ht : execQuietCountReset pulse s = .next t := ht
    refine live_driveLaw h ?_ ht
    split
    · split
      · exact h.pulseEnded _ _
      · exact h
    · exact h.pulseEnded _ _
    · exact h
  | transactionOpen => cases ht; exact h.of_lineView s.openTransaction_lineView
  | sckRisingEdge sdi => cases ht; exact h.of_lineView (s.sckEdge_lineView sdi)

/-- Settles O59: LTX is driven by the take, a BIT_DRIVE, a fault and OWN_SLOT_DRIVE alone, and every other operation lets
time pass, ends drives, or leaves the view of the line as it is. -/
theorem everyStepKeepsTheDriveLaw : Obligations.EveryStepKeepsTheDriveLaw := by
  intro s t h ht
  unfold step at ht
  split at ht
  · cases ht
    exact h.tick
  · rename_i c rest _
    exact exec_driveLaw (s := { s with pending := rest }) h ht

end Sys2Proof.Machine
end

section
/-! SUPPORT. The Host Port: the step, the resets, and the take of each host command (O1, O3 to O20 but the orders of
frames). -/

namespace Sys2Proof.Machine

/-! ### The step and the resets -/

/-- Settles O1: the two branches of the step. -/
theorem stepCarriesOutTheFrontCommand : Obligations.StepCarriesOutTheFrontCommand := by
  refine ⟨fun c rest s => rfl, fun s h => ?_⟩
  unfold step
  rw [h]

theorem State.openTxn_of_low {s : State} (h : s.pins.resetLow = true) : s.openTxn = none := by
  simp [State.openTxn, h]

theorem State.openTxn_of_high {s : State} (h : s.pins.resetLow = false) : s.openTxn = s.hp.txn := by
  simp [State.openTxn, h]

/-- In a held reset no host command is taken (R141). -/
theorem State.takeCommand_of_low {s : State} (h : s.pins.resetLow = true) (c : HostCmd) : s.takeCommand c = s := by
  simp [State.takeCommand, State.openTxn_of_low h]

/-- In a held reset no reply ends (R141). -/
theorem State.endReply_of_low {s : State} (h : s.pins.resetLow = true) (which : HostCmd → Bool) :
    s.endReply which = s := by
  simp [State.endReply, State.openTxn_of_low h]

/-- In a held reset a command of the line or of a timer answers the state unchanged (R141). -/
theorem next_of_low {s : State} (h : s.pins.resetLow = true) (t : State) :
    (.next (if s.pins.resetLow then s else t) : Result) = .next s := by
  rw [if_pos h]

/-- Settles O3: the commands of the line and the timers run through `live`, those of the host port through the open
transaction, and a held reset stops both. -/
theorem heldResetIsDeaf : Obligations.HeldResetIsDeaf := by
  intro c s h
  have take (c : HostCmd) : Host.Outcome.next (s.takeCommand c) = (Host.Outcome.next s : Result) := by
    rw [State.takeCommand_of_low h]
  have ends (which : HostCmd → Bool) : Host.Outcome.next (s.endReply which) = (Host.Outcome.next s : Result) := by
    rw [State.endReply_of_low h]
  have pins (csn : Bool) : ({ s.pins with csnLow := csn } : Pins) = { resetLow := true, csnLow := csn } := by
    rw [← h]
  cases c with
  | pinResetAssert => trivial
  | pinResetRelease straps low => trivial
  | transactionOpen =>
    change Host.Outcome.next s.openTransaction = _
    rw [State.openTransaction, if_pos h]
    exact congrArg (fun p => Host.Outcome.next { s with pins := p }) (pins true)
  | transactionEnd low =>
    change Host.Outcome.next (s.closeTransaction low) = _
    rw [State.closeTransaction, State.openTxn_of_low h]
    exact congrArg (fun p => Host.Outcome.next { s with pins := p }) (pins false)
  | sckRisingEdge sdi =>
    change Host.Outcome.next (s.sckEdge sdi) = _
    rw [State.sckEdge, State.openTxn_of_low h]
  | badCommand code =>
    change Host.Outcome.next (if operandCount code = none then s.takeCommand (.bad code) else s) = _
    rw [State.takeCommand_of_low h, ite_self]
  | status => exact take _
  | configure limit options => exact take _
  | join => exact take _
  | submit kind tag zone mode => exact take _
  | withdraw tag => exact take _
  | fetch => exact take _
  | readZone zone => exact take _
  | restart => exact take _
  | statusReplyEnd => exact ends _
  | fetchReplyEnd => exact ends _
  | _ => exact next_of_low h _

/-- Settles O4: the reset values of the blocks, one by one. -/
theorem resetValues : Obligations.ResetValues := by
  refine ⟨fun z => ⟨?_, ?_⟩, rfl, rfl, rfl, rfl, rfl, rfl, rfl, rfl, rfl, rfl, rfl, rfl, rfl, rfl, rfl, rfl, rfl, rfl, rfl⟩
  · simp [State.reset, Ztu.reset, Ztu.zone]
    rfl
  · simp [State.reset, Ru.reset, Ru.ticket]

/-- Settles O6. -/
theorem pinReset : Obligations.PinReset := by
  refine ⟨fun s => ⟨rfl, fun t ht => ?_⟩, fun s sn qs low => ⟨fun h => ?_, fun h => ?_⟩⟩
  · cases ht
    refine ⟨rfl, ?_, ?_⟩
    · simp [State.attn, State.holdReset]
    · simp [State.sdo, State.holdReset]
  · change Host.Outcome.next (if s.pins.resetLow then s.pinReset sn qs low else s) = _
    rw [if_pos h]
    rfl
  · change Host.Outcome.next (if s.pins.resetLow then s.pinReset sn qs low else s) = _
    rw [if_neg (by simp [h])]

/-! ### The take of each command (R128, R130, R132 to R134) -/

/-- What a host command does and answers when its transaction is ready: the reply's state, with the reply fixed. -/
theorem next_takeCommand {s : State} {c : HostCmd} (h : s.readyFor c) {t : State} {reply : List Byte} {reported : Bool}
    (hr : s.reply c = { state := t, code := (s.reply c).code, data := (s.reply c).data, reported := reported })
    (hb : (s.reply c).code.byte :: (s.reply c).data = reply) :
    (.next (s.takeCommand c) : Result) = .next (t.answered c reply reported) := by
  rw [State.takeCommand_of_ready h, hb, hr]

/-- A command that answers a code without data. -/
theorem next_takeCommand_bare {s : State} {c : HostCmd} (h : s.readyFor c) {t : State} {code : ReplyCode}
    (hr : s.reply c = Reply.bare t code) :
    (.next (s.takeCommand c) : Result) = .next (t.answered c [code.byte] false) := by
  rw [State.takeCommand_of_ready h, hr]
  rfl

/-- Two flags in the two low bits of a byte. -/
theorem flagByte_eq (low high : Bool) :
    (0#6 ++ (BitVec.ofBool high ++ BitVec.ofBool low) : Byte) =
      (if low then 0x01#8 else 0x00#8) ||| (if high then 0x02#8 else 0x00#8) := by
  cases low <;> cases high <;> rfl

/-- Settles O7: the data bytes of the model, with its two flag bytes written out. -/
theorem statusReportsTheState : Obligations.StatusReportsTheState := by
  intro s h
  refine next_takeCommand h rfl ?_
  rw [← flagByte_eq, ← flagByte_eq]
  rfl

/-- An options byte is valid exactly below 4. -/
theorem optionsValid_iff (b : Byte) : optionsValid b = true ↔ b.toNat < 4 := by
  revert b
  decide

theorem optionBits (b : Byte) (h : b.toNat < 4) :
    b.getLsbD 0 = decide (b.toNat % 2 = 1) ∧ b.getLsbD 1 = decide (2 ≤ b.toNat) := by
  revert b
  decide

/-- Settles O8: the three branches of the reply. -/
theorem configureInOfflineAlone : Obligations.ConfigureInOfflineAlone := by
  intro s limit options h
  refine ⟨fun hs => ?_, fun hs ho => ?_, fun hs ho => ?_⟩
  · exact next_takeCommand_bare (code := .state) h (if_pos hs)
  · have hv : (!optionsValid options) = true := by
      rw [Bool.not_eq_true', ← Bool.not_eq_true, optionsValid_iff]
      omega
    refine next_takeCommand_bare (code := .badOperand) h ?_
    change State.configureReply limit options s = _
    rw [State.configureReply, if_neg (by simp [hs]), if_pos hv]
  · have hv := (optionsValid_iff options).2 ho
    obtain ⟨h0, h1⟩ := optionBits options ho
    refine next_takeCommand_bare (code := .ok) h ?_
    change State.configureReply limit options s = _
    rw [State.configureReply, if_neg (by simp [hs]), if_neg (by simp [hv]), h0, h1]
    rfl

/-- With nothing in transmission the entry to HAILING withdraws nothing from the line (R52). -/
theorem State.enterHailing_of_tx_none {s : State} (h : s.fe.tx = none) :
    s.enterHailing =
      { s with
        tc := { s.tc with state := .hailing }
        fe := { s.fe with hail := some 0, join := none }
        cu := { s.cu with log := [], logging := false } } := by
  unfold State.enterHailing
  simp only [State.onFe, State.setState, State.onTc, Fe.withdraw_of_tx_none h]
  rfl

/-- Settles O9: with nothing in transmission the return to HAILING withdraws nothing from the line. -/
theorem joinLeavesOffline : Obligations.JoinLeavesOffline := by
  intro s h
  refine ⟨fun hs htx => ?_, fun hs => next_takeCommand_bare (code := .state) h (if_neg hs)⟩
  refine next_takeCommand_bare (code := .ok) h ?_
  change State.joinReply s = _
  rw [State.joinReply, if_pos hs, State.enterHailing_of_tx_none htx]

end Sys2Proof.Machine
end

section
/-! SUPPORT. The Host Port: reset is lawful, SUBMIT and WITHDRAW, the replies of FETCH and READ-ZONE, the ends of replies
and transactions, the edges of SCK, and the notice queue (O5, O10 to O20). -/

namespace Sys2Proof.Machine

/-- Settles O5: nothing is queued, held, driven or waiting after reset, and one notice is. -/
theorem resetIsLawful : Obligations.ResetIsLawful where
  notices := by decide
  pool := Ztu.total_reset
  table := Ztu.laws_reset _
  outOfStep := fun _ => ⟨fun z => Ztu.zone_reset z, rfl, rfl, rfl, rfl⟩
  requests := by decide
  drive := trivial
  copy := by decide

/-! ### SUBMIT (R99 to R102) -/

/-- The two checks before the operands are read pass. -/
theorem Ru.submit_of_open {r : Ru} {st : StationState} (h1 : st ≠ .offline) (h2 : st ≠ .leaving)
    (h3 : ∀ q ∈ r.queue, q.op ≠ .leave) (kind tag zone mode : Byte) :
    r.submit st kind tag zone mode =
      match submitKindOf kind mode with
      | none => (r, .badOperand)
      | some k =>
        if k == .leave && st != .member then (r, .state)
        else
          match k.request zone with
          | none => (r, .zone)
          | some op => r.enqueue tag op := by
  have ha : st.acceptsSubmit = true := by cases st <;> simp_all [StationState.acceptsSubmit]
  unfold Ru.submit
  rw [ha, Ru.leaveQueued_eq_false.2 h3]
  rfl

/-- A station that takes no requests, or with a LEAVE queued, refuses them all (R99). -/
theorem Ru.submit_of_closed {r : Ru} {st : StationState}
    (h : ¬ (st ≠ .offline ∧ st ≠ .leaving ∧ ∀ q ∈ r.queue, q.op ≠ .leave)) (kind tag zone mode : Byte) :
    r.submit st kind tag zone mode = (r, .state) := by
  have hc : (!st.acceptsSubmit || r.leaveQueued) = true := by
    by_contra hc
    simp only [Bool.or_eq_true, Bool.not_eq_true', not_or, Bool.not_eq_false, Bool.not_eq_true] at hc
    refine h ⟨?_, ?_, Ru.leaveQueued_eq_false.1 hc.2⟩
    · rintro rfl; cases hc.1
    · rintro rfl; cases hc.1
  rw [Ru.submit, if_pos hc]

/-- The submitted kind of a request operation. -/
def ReqOp.submitKind : ReqOp → SubmitKind
  | .claim _ m => .claim m
  | .release _ => .release
  | .touch => .touch
  | .leave => .leave

/-- Operands that spell a request are read as it. -/
theorem ReqOp.submit_of_spelt {op : ReqOp} {kind zone mode : Byte} (h : op.spelt kind zone mode) :
    submitKindOf kind mode = some op.submitKind ∧ op.submitKind.request zone = some op := by
  cases op with
  | claim z m =>
    obtain ⟨rfl, hz, rfl⟩ := h
    exact ⟨by simp [submitKindOf, ReqOp.submitKind],
      by simp [ReqOp.submitKind, SubmitKind.request, zoneOf_eq_some.2 hz.symm]⟩
  | release z =>
    obtain ⟨rfl, hz⟩ := h
    exact ⟨rfl, by simp [ReqOp.submitKind, SubmitKind.request, zoneOf_eq_some.2 hz.symm]⟩
  | touch => cases h; exact ⟨rfl, rfl⟩
  | leave => cases h; exact ⟨rfl, rfl⟩

/-- A spelt request that the station state allows comes to the checks of the queue. -/
theorem Ru.submit_of_spelt {r : Ru} {st : StationState} (h1 : st ≠ .offline) (h2 : st ≠ .leaving)
    (h3 : ∀ q ∈ r.queue, q.op ≠ .leave) {op : ReqOp} {kind tag zone mode : Byte} (hop : op.spelt kind zone mode)
    (hl : op = .leave → st = .member) : r.submit st kind tag zone mode = r.enqueue tag op := by
  obtain ⟨hk, hr⟩ := ReqOp.submit_of_spelt hop
  have hc : (op.submitKind == .leave && st != .member) = false := by
    cases op with
    | leave => simp [hl rfl]
    | _ => rfl
  rw [Ru.submit_of_open h1 h2 h3, hk]
  simp only [hc, hr]
  rfl

theorem Ru.refusesBusy_iff {r : Ru} {op : ReqOp} :
    r.refusesBusy op = true ↔ ∃ z m, op = .claim z m ∧ r.zoneBusy z := by
  cases op <;> simp [Ru.refusesBusy, Ru.busy_iff]

/-- What SUBMIT answers and leaves of the Request Unit. -/
theorem next_submit {s : State} {kind tag zone mode : Byte} (h : s.readyFor (.submit kind tag zone mode)) {r : Ru}
    {code : ReplyCode} (hr : s.ru.submit s.tc.state kind tag zone mode = (r, code)) :
    exec (.submit kind tag zone mode) s =
      .next (({ s with ru := r } : State).answered (.submit kind tag zone mode) [code.byte] false) := by
  refine next_takeCommand_bare h ?_
  change s.submitReply kind tag zone mode = _
  rw [State.submitReply, hr]
  rfl

/-- Settles O10: each check passes, so the request is appended. -/
theorem submitAppendsTheRequest : Obligations.SubmitAppendsTheRequest := by
  intro s kind tag zone mode op h hop h1 h2 h3 hl ht hf hb
  refine next_submit (code := .ok) h ?_
  rw [Ru.submit_of_spelt h1 h2 h3 hop hl]
  rcases s.ru.enqueue_cases tag op with ⟨⟨q, hq, e⟩, -⟩ | ⟨-, hn, -⟩ | ⟨-, -, hbusy, -⟩ | ⟨-, -, -, e⟩
  · exact absurd e (ht q hq)
  · omega
  · obtain ⟨z, m, e, hz⟩ := Ru.refusesBusy_iff.1 hbusy
    exact absurd hz (hb z m e)
  · exact e

/-- The kinds and modes that SUBMIT names (R195). -/
theorem submitKindOf_eq_none {kind mode : Byte}
    (h : ¬ ((kind = 0x01#8 ∧ (mode = 0x01#8 ∨ mode = 0x02#8)) ∨ kind = 0x02#8 ∨ kind = 0x03#8 ∨ kind = 0x05#8)) :
    submitKindOf kind mode = none := by
  simp only [not_or, not_and] at h
  obtain ⟨h1, h2, h3, h5⟩ := h
  unfold submitKindOf
  split_ifs with hk
  · obtain ⟨hm1, hm2⟩ := h1 hk
    simp [modeOf, hm1, hm2]
  · rfl

/-- A CLAIM or RELEASE whose zone is not below 64 is no request. -/
theorem submitKindOf_zone {kind zone mode : Byte}
    (h : (kind = 0x01#8 ∧ (mode = 0x01#8 ∨ mode = 0x02#8)) ∨ kind = 0x02#8 ∨ kind = 0x03#8 ∨ kind = 0x05#8)
    (hk : kind = 0x01#8 ∨ kind = 0x02#8) (hz : 64 ≤ zone.toNat) :
    ∃ k, submitKindOf kind mode = some k ∧ k ≠ .leave ∧ k.request zone = none := by
  have hn : zoneOf zone = none := by
    unfold zoneOf
    rw [dif_neg (by omega)]
  rcases hk with rfl | rfl
  · rcases h with ⟨-, rfl | rfl⟩ | h | h | h
    · exact ⟨.claim .exclusive, rfl, by simp, by simp [SubmitKind.request, hn]⟩
    · exact ⟨.claim .shared, rfl, by simp, by simp [SubmitKind.request, hn]⟩
    all_goals exact absurd h (by decide)
  · exact ⟨.release, rfl, by simp, by simp [SubmitKind.request, hn]⟩

/-- Settles O11: the checks in the order in which SUBMIT makes them. -/
theorem submitRefusedByTheFirstFailedCheck : Obligations.SubmitRefusedByTheFirstFailedCheck := by
  intro s kind tag zone mode h refused open1 named
  have refuse (code : ReplyCode) (hr : s.ru.submit s.tc.state kind tag zone mode = (s.ru, code)) : refused code.byte :=
    next_submit h hr
  refine ⟨fun hc => refuse .state (Ru.submit_of_closed hc kind tag zone mode), fun ⟨h1, h2, h3⟩ hn => ?_,
    fun ⟨h1, h2, h3⟩ hk hs => ?_, fun ⟨h1, h2, h3⟩ hn hk hz => ?_, fun op hop ⟨h1, h2, h3⟩ hl => ?_⟩
  · refine refuse .badOperand ?_
    rw [Ru.submit_of_open h1 h2 h3, submitKindOf_eq_none hn]
  · refine refuse .state ?_
    rw [Ru.submit_of_open h1 h2 h3, hk]
    exact if_pos (by simp [hs])
  · obtain ⟨k, e, hkl, hr⟩ := submitKindOf_zone hn hk hz
    have hc : (k == .leave && s.tc.state != .member) = false := by simp [hkl]
    refine refuse .zone ?_
    rw [Ru.submit_of_open h1 h2 h3, e]
    simp only [hc, hr]
    rfl
  · have e := Ru.submit_of_spelt (tag := tag) h1 h2 h3 hop hl
    rcases s.ru.enqueue_cases tag op with ⟨hq, e'⟩ | ⟨hq, hn, e'⟩ | ⟨hq, hn, -, e'⟩ | ⟨hq, hn, hb, -⟩
    · obtain ⟨q, hmem, htag⟩ := hq
      exact ⟨fun _ => refuse .tag (e.trans e'), fun hne => absurd htag (hne q hmem),
        fun z m _ hne => absurd htag (hne q hmem)⟩
    · exact ⟨fun ⟨q, hmem, htag⟩ => absurd htag (hq q hmem), fun _ _ => refuse .full (e.trans e'),
        fun z m _ _ hlt => absurd hlt (by omega)⟩
    · exact ⟨fun ⟨q, hmem, htag⟩ => absurd htag (hq q hmem), fun _ hle => absurd hn (by omega),
        fun z m _ _ _ _ => refuse .busyZone (e.trans e')⟩
    · refine ⟨fun ⟨q, hmem, htag⟩ => absurd htag (hq q hmem), fun _ hle => absurd hn (by omega), fun z m ho _ _ hz => ?_⟩
      rw [Ru.refusesBusy_iff.2 ⟨z, m, ho, hz⟩] at hb
      cases hb

/-! ### WITHDRAW (R103) -/

/-- What WITHDRAW answers and leaves of the Request Unit. -/
theorem next_withdraw {s : State} {tag : Byte} (h : s.readyFor (.withdraw tag)) {r : Ru} {code : ReplyCode}
    (hr : s.ru.withdraw tag = (r, code)) :
    exec (.withdraw tag) s = .next (({ s with ru := r } : State).answered (.withdraw tag) [code.byte] false) := by
  refine next_takeCommand_bare h ?_
  change s.withdrawReply tag = _
  rw [State.withdrawReply, hr]
  rfl

/-- Settles O12: WITHDRAW finds the first request with the tag and takes out that one. -/
theorem withdrawRemovesWhatIsNotOnTheLine : Obligations.WithdrawRemovesWhatIsNotOnTheLine := by
  intro s tag h
  refine ⟨fun ahead behind q hq htag ha => ?_, fun hn => ?_⟩
  · obtain ⟨hfind, herase⟩ := find_tag (behind := behind) htag ha
    refine ⟨fun hl => ?_, fun hl => ?_⟩
    · refine next_withdraw (code := .ok) h ?_
      simp only [Ru.withdraw, hq, hfind, herase, hl]
      rfl
    · refine next_withdraw (r := s.ru) (code := .inFlight) h ?_
      simp only [Ru.withdraw, hq, hfind, hl]
      rfl
  · have hfind : s.ru.queue.find? (fun q => q.tag == tag) = none := by simpa using hn
    refine next_withdraw (r := s.ru) (code := .unknownTag) h ?_
    simp only [Ru.withdraw, hfind]

/-! ### FETCH, READ-ZONE, RESTART and unknown codes (R124, R133, R134, R142) -/

/-- Settles O13: the record of the oldest notice, field by field. -/
theorem fetchReportsTheOldestNotice : Obligations.FetchReportsTheOldestNotice := by
  intro s h
  refine ⟨fun hn => ?_, fun n rest hn => ?_⟩
  · have hr : s.reply .fetch = ⟨s, .empty, List.replicate 8 0xFF#8, false⟩ := by
      change s.fetchReply = _
      rw [State.fetchReply, hn]
    change (Host.Outcome.next _ : Result) = _
    rw [State.takeCommand_of_ready h, hr]
    rfl
  · have hr : s.reply .fetch = ⟨s, .ok, n.bytes, true⟩ := by
      change s.fetchReply = _
      rw [State.fetchReply, hn]
    have hkind (k : FrameKind) : (0#4 ++ k.code : Byte) = BitVec.ofNat 8 k.code.toNat := by cases k <;> rfl
    have htag : n.tag.getD 0xFF#8 = (match n.tag with | some tag => tag | none => 0xFF#8) := by
      cases n.tag <;> rfl
    have hrequest : (n.request.map fun k => (0#4 ++ k.code : Byte)).getD 0xFF#8 =
        (match n.request with | some k => BitVec.ofNat 8 k.code.toNat | none => 0xFF#8) := by
      cases n.request with
      | none => rfl
      | some k => exact hkind k
    have hzone : (n.zone.map zoneByte).getD 0xFF#8 =
        (match n.zone with | some z => BitVec.ofNat 8 z.val | none => 0xFF#8) := by
      cases n.zone <;> rfl
    have hstation : (n.station.map stationByte).getD 0xFF#8 =
        (match n.station with | some k => BitVec.ofNat 8 k.val | none => 0xFF#8) := by
      cases n.station <;> rfl
    have hturn : wordBytes (n.turn.getD 0xFFFF#16) =
        [(match n.turn with | some turn => turn.extractLsb' 8 8 | none => 0xFF#8),
          (match n.turn with | some turn => turn.extractLsb' 0 8 | none => 0xFF#8)] := by
      cases n.turn <;> rfl
    have hreason : (n.reason.bind Reason.code).getD 0xFF#8 =
        (match n.reason with | some why => why.code.getD 0xFF#8 | none => 0xFF#8) := by
      cases n.reason <;> rfl
    change (Host.Outcome.next _ : Result) = _
    rw [State.takeCommand_of_ready h, hr]
    simp only [Notice.bytes, htag, hrequest, hzone, hstation, hturn, hreason, ReplyCode.byte, List.cons_append,
      List.nil_append] <;> rfl

theorem Waiting.byte_eq (w : Waiting) :
    w.byte = BitVec.ofNat 8 (16 * w.station.val + if w.mode = .shared then 1 else 0) := by
  obtain ⟨k, m⟩ := w
  revert k
  cases m <;> decide

/-- Settles O14: the zone record and its ticket, field by field. -/
theorem readZoneReportsRecordAndTicket : Obligations.ReadZoneReportsRecordAndTicket := by
  intro s zone h
  refine ⟨fun hz => ?_, fun z hz => ?_⟩
  · have hn : zoneOf zone = none := by
      unfold zoneOf
      rw [dif_neg (by omega)]
    have hr : s.reply (.readZone zone) = ⟨s, .zone, List.replicate 24 0xFF#8, false⟩ := by
      change s.readZoneReply zone = _
      rw [State.readZoneReply, hn]
    change (Host.Outcome.next _ : Result) = _
    rw [State.takeCommand_of_ready h, hr]
    rfl
  · have hr : s.reply (.readZone zone) = ⟨s, .ok, zoneReply z (s.ztu.zone z) (s.ru.ticket z), false⟩ := by
      change s.readZoneReply zone = _
      rw [State.readZoneReply, zoneOf_eq_some.2 hz]
    have hzone : zoneByte z = zone := by
      rw [zoneByte, hz]
      simp
    have hstate : (0#6 ++ (s.ztu.zone z).state.code : Byte) =
        (match (s.ztu.zone z).state with | .free => 0x00#8 | .exclusive => 0x01#8 | .shared => 0x02#8) := by
      cases (s.ztu.zone z).state <;> rfl
    have hqueue : (s.ztu.zone z).queue.map Waiting.byte =
        (s.ztu.zone z).queue.map fun w => BitVec.ofNat 8 (16 * w.station.val + if w.mode = .shared then 1 else 0) :=
      List.map_congr_left fun w _ => w.byte_eq
    have hticket : (s.ru.ticket z).bytes =
        (match s.ru.ticket z with
          | .none => [0x00#8, 0xFF#8, 0xFF#8]
          | .waiting tag m => [0x01#8, tag, if m = .shared then 0x02#8 else 0x01#8]
          | .holding tag m => [0x02#8, tag, if m = .shared then 0x02#8 else 0x01#8]) := by
      rcases s.ru.ticket z with _ | ⟨tag, _ | _⟩ | ⟨tag, _ | _⟩ <;> rfl
    change (Host.Outcome.next _ : Result) = _
    rw [State.takeCommand_of_ready h, hr]
    simp only [zoneReply, hzone, hstate, hqueue, hticket, wordBytes, ReplyCode.byte, List.cons_append, List.nil_append,
      List.append_assoc] <;> rfl

/-- A code outside the table names no command (R124). -/
theorem operandCount_eq_none {code : Byte}
    (h : code ∉ [0x10#8, 0x11#8, 0x20#8, 0x30#8, 0x31#8, 0x40#8, 0x41#8, 0x5A#8]) : operandCount code = none := by
  simp only [List.mem_cons, List.not_mem_nil, or_false, not_or] at h
  obtain ⟨h1, h2, h3, h4, h5, h6, h7, h8⟩ := h
  simp only [operandCount, h1, h2, h3, h4, h5, h6, h7, h8, if_false]

/-- Settles O15. -/
theorem restartAndBadCommandTakes : Obligations.RestartAndBadCommandTakes := by
  refine ⟨fun s h => next_takeCommand_bare (code := .ok) h rfl, fun s code h hc => ?_⟩
  change (Host.Outcome.next (if operandCount code = none then _ else s) : Result) = _
  rw [if_pos (operandCount_eq_none hc)]
  exact next_takeCommand_bare (code := .badCommand) h rfl

/-! ### The ends of replies and transactions, and the edges of SCK (R123, R126, R129, R134) -/

/-- The reply of the command taken ends for a command of that kind with bits still to come. -/
theorem State.endReply_of_taken {s : State} {t : Txn} {k : Taken} (h : s.pins.resetLow = false) (ht : s.hp.txn = some t)
    (hk : t.taken = some k) {which : HostCmd → Bool} (hw : which k.cmd = true) (hs : k.shifted < 8 * k.reply.length) :
    s.endReply which = s.onHp fun h => (h.shiftedTo t k k.replyBits).replyEnded k := by
  have hc : (which k.cmd && decide (k.shifted < k.replyBits)) = true := by simp [hw, Taken.replyBits, hs]
  simp only [State.endReply, State.openTxn_of_high h, ht, hk, hc, if_true]

/-- The Host Port where the last reply bit of STATUS is out. -/
theorem Hp.replyEnded_status {k : Taken} (hk : k.cmd = .status) (h : Hp) :
    h.replyEnded k =
      { h with overflow := decide (k.discards ≠ 0), overflowCount := min 255 k.discards, truncated := false } := by
  have hd : (k.discards != 0) = decide (k.discards ≠ 0) := by
    cases e : k.discards <;> simp
  rw [Hp.replyEnded, hk]
  exact congrArg (fun b => ({ h with overflow := b, overflowCount := min 255 k.discards, truncated := false } : Hp)) hd

/-- The Host Port where the last reply bit of FETCH is out. -/
theorem Hp.replyEnded_fetch {k : Taken} (hk : k.cmd = .fetch) (h : Hp) :
    h.replyEnded k = { h with notices := if k.reported then h.notices.drop 1 else h.notices } := by
  rw [Hp.replyEnded, hk]
  cases k.reported <;> rfl

/-- The end of any other reply has no effect. -/
theorem Hp.replyEnded_other {k : Taken} (h1 : k.cmd ≠ .status) (h2 : k.cmd ≠ .fetch) (h : Hp) :
    h.replyEnded k = h := by
  unfold Hp.replyEnded
  split
  · contradiction
  · contradiction
  · rfl

/-- Settles O16. -/
theorem replyEndsTakeEffect : Obligations.ReplyEndsTakeEffect := by
  intro s t k h ht hk hs out
  refine ⟨fun hc => ?_, fun hc => ?_⟩
  · change (Host.Outcome.next (s.endReply fun c => c == .status) : Result) = _
    rw [State.endReply_of_taken h ht hk (by simp [hc]) hs, State.onHp, Hp.replyEnded_status hc]
    rfl
  · change (Host.Outcome.next (s.endReply fun c => c == .fetch) : Result) = _
    rw [State.endReply_of_taken h ht hk (by simp [hc]) hs, State.onHp, Hp.replyEnded_fetch hc]
    rfl

/-- Settles O17. -/
theorem transactionsOpenAndEnd : Obligations.TransactionsOpenAndEnd := by
  refine ⟨fun s h ht => ?_, fun s t low h ht => ?_⟩
  · change (Host.Outcome.next s.openTransaction : Result) = _
    rw [State.openTransaction, if_neg (by simp [h]), ht]
    rfl
  · have close : exec (.transactionEnd low) s = .next (s.closeTransaction low) := rfl
    have hopen : s.openTxn = some t := (State.openTxn_of_high h).trans ht
    intro ended
    refine ⟨fun hk hs => ?_, fun hk hs => ?_, fun k hk hc => ?_, fun k hk hc => ?_⟩
    · simp only [close, State.closeTransaction, hopen, hk, hs]
      rfl
    · simp only [close, State.closeTransaction, hopen, hk, List.isEmpty_iff, hs, if_false]
      rfl
    · simp only [close, State.closeTransaction, hopen, hk, hc, if_false]
      rfl
    · simp only [close, State.closeTransaction, hopen, hk, hc, if_true]
      rfl

end Sys2Proof.Machine
end

section
/-! SUPPORT. The bytes of host commands, the edges of SCK, ATTN and the notice queue (O18 to O20, O46). -/

namespace Sys2Proof.Machine

/-! ### Command bytes (R124, R191, R192) -/

/-- The codes with an operand count are those of Table 9.4-2. -/
theorem operandCount_eq_none_iff (code : Byte) :
    operandCount code = none ↔ code ∉ [0x10#8, 0x11#8, 0x20#8, 0x30#8, 0x31#8, 0x40#8, 0x41#8, 0x5A#8] := by
  revert code
  decide

/-- A code that names no command is taken at its one byte. -/
theorem hostCmdOf_bad {code : Byte} (h : operandCount code = none) : hostCmdOf [code] = some (.bad code) := by
  have hn := (operandCount_eq_none_iff code).1 h
  simp only [List.mem_cons, List.not_mem_nil, or_false, not_or] at hn
  obtain ⟨h1, -, h3, -, -, h6, -, h8⟩ := hn
  simp only [hostCmdOf, h1, h3, h6, h8, h, if_false, if_true]

/-- The bytes of a command spell it. -/
theorem hostCmdOf_bytes {c : HostCmd} (h : ∀ code, c = .bad code → operandCount code = none) :
    hostCmdOf c.bytes = some c := by
  cases c with
  | bad code => exact hostCmdOf_bad (h code rfl)
  | _ => rfl

/-- No proper initial part of a command's bytes spells a command. -/
theorem hostCmdOf_take (c : HostCmd) {n : Nat} (hn : n < c.bytes.length) : hostCmdOf (c.bytes.take n) = none := by
  cases c with
  | configure limit options => rcases n with _ | _ | _ | n <;> [rfl; rfl; rfl; exact absurd hn (by simp [HostCmd.bytes])]
  | submit kind tag zone mode =>
    rcases n with _ | _ | _ | _ | _ | n <;> [rfl; rfl; rfl; rfl; rfl; exact absurd hn (by simp [HostCmd.bytes])]
  | withdraw tag => rcases n with _ | _ | n <;> [rfl; rfl; exact absurd hn (by simp [HostCmd.bytes])]
  | readZone zone => rcases n with _ | _ | n <;> [rfl; rfl; exact absurd hn (by simp [HostCmd.bytes])]
  | _ => rcases n with _ | n <;> [rfl; exact absurd hn (by simp [HostCmd.bytes])]

/-- Settles O46. -/
theorem hostCommandsAreTakenWhole : Obligations.HostCommandsAreTakenWhole :=
  fun c h => ⟨hostCmdOf_bytes h, fun _ hn => hostCmdOf_take c hn⟩

/-- What bytes spell is a command of the table, or an unknown code, with those bytes. -/
theorem named_of_hostCmdOf {bytes : List Byte} {c : HostCmd} (h : hostCmdOf bytes = some c) :
    c.named ∧ c.bytes = bytes := by
  unfold hostCmdOf at h
  split at h
  · split_ifs at h with h1 h2 h3 h4 h5 <;> cases h
    · exact ⟨trivial, by rw [h1]; rfl⟩
    · exact ⟨trivial, by rw [h2]; rfl⟩
    · exact ⟨trivial, by rw [h3]; rfl⟩
    · exact ⟨trivial, by rw [h4]; rfl⟩
    · exact ⟨(operandCount_eq_none_iff _).1 h5, rfl⟩
  · split_ifs at h with h1 h2 <;> cases h
    · exact ⟨trivial, by rw [h1]; rfl⟩
    · exact ⟨trivial, by rw [h2]; rfl⟩
  · split_ifs at h with h1
    cases h
    exact ⟨trivial, by rw [h1]; rfl⟩
  · split_ifs at h with h1
    cases h
    exact ⟨trivial, by rw [h1]; rfl⟩
  · cases h

/-! ### The edges of SCK (R123, R124) -/

theorem HostCmd.named.operandCount {c : HostCmd} (h : c.named) (code : Byte) (e : c = .bad code) :
    operandCount code = none := by
  subst e
  exact (operandCount_eq_none_iff code).2 h

/-- The command of the block for a named host command is its take. -/
theorem exec_instr {c : HostCmd} (h : c.named) (s : State) : exec c.instr s = .next (s.takeCommand c) := by
  cases c with
  | bad code =>
    change Host.Outcome.next (if _ then _ else s) = _
    rw [if_pos (h.operandCount code rfl)]
  | _ => rfl

/-- Before the take a rising edge samples SDI, and takes what its bit completes. -/
theorem State.sckEdge_of_open {s : State} {t : Txn} (h : s.pins.resetLow = false) (ht : s.hp.txn = some t)
    (hk : t.taken = none) (b : Bool) :
    s.sckEdge b =
      match if (t.sampled ++ [b]).length % 8 = 0 then hostCmdOf (bytesOf (t.sampled ++ [b])) else none with
      | some c => (s.reply c).commit c
      | none => s.onHp fun h => { h with txn := some { t with sampled := t.sampled ++ [b] } } := by
  simp only [State.sckEdge, State.openTxn_of_high h, ht, hk] <;> rfl

/-- The bit that completes a command's bits takes the command, as the command itself does. -/
theorem State.sckEdge_of_whole {s : State} {t : Txn} (h : s.pins.resetLow = false) (ht : s.hp.txn = some t)
    (hk : t.taken = none) {b : Bool} {c : HostCmd} (hc : c.named) (hb : t.sampled ++ [b] = bitsOf c.bytes) :
    s.sckEdge b = s.takeCommand c := by
  have hlen : t.sampled.length < (bitsOf c.bytes).length := by
    rw [← hb]
    simp
  have htake : (bitsOf c.bytes).take t.sampled.length = t.sampled := by
    rw [← hb]
    simp
  have hadmits : t.admits c = true := by
    simp only [Txn.admits, hk, hlen, htake, Option.isNone_none, decide_true, beq_self_eq_true, Bool.and_self]
  rw [State.sckEdge_of_open h ht hk, hb, bytesOf_bitsOf, if_pos (by simp), hostCmdOf_bytes hc.operandCount]
  simp only [State.takeCommand, State.openTxn_of_high h, ht, hadmits, if_true]

/-- A bit that completes no command is sampled and no more. -/
theorem State.sckEdge_of_partial {s : State} {t : Txn} (h : s.pins.resetLow = false) (ht : s.hp.txn = some t)
    (hk : t.taken = none) {b : Bool}
    (hb : (if (t.sampled ++ [b]).length % 8 = 0 then hostCmdOf (bytesOf (t.sampled ++ [b])) else none) = none) :
    s.sckEdge b = { s with hp := { s.hp with txn := some { t with sampled := t.sampled ++ [b] } } } := by
  rw [State.sckEdge_of_open h ht hk, hb]
  rfl

/-- After the take a rising edge shifts out one more reply bit, and the last one ends the reply. -/
theorem State.sckEdge_of_taken {s : State} {t : Txn} {k : Taken} (h : s.pins.resetLow = false) (ht : s.hp.txn = some t)
    (hk : t.taken = some k) (b : Bool) :
    s.sckEdge b =
      s.onHp fun h =>
        if k.shifted + 1 = 8 * k.reply.length then (h.shiftedTo t k (k.shifted + 1)).replyEnded k
        else h.shiftedTo t k (k.shifted + 1) := by
  simp only [State.sckEdge, State.openTxn_of_high h, ht, hk]
  rfl

/-- The level on SDO while a transaction is open (R123). -/
theorem State.sdo_of_open {s : State} {t : Txn} (h : s.pins.resetLow = false) (hc : s.pins.csnLow = true)
    (ht : s.hp.txn = some t) :
    s.sdo = match t.taken with
      | none => some false
      | some k => some ((bitsOf k.reply)[k.shifted]?.getD false) := by
  simp only [State.sdo, h, hc, ht] <;> rfl

/-- Settles O18: the take at the bit that completes a command, the shift after it, and the level on SDO. -/
theorem clockEdges : Obligations.ClockEdges := by
  have edge (s : State) (b : Bool) : exec (.sckRisingEdge b) s = .next (s.sckEdge b) := rfl
  refine ⟨fun s t b h ht hk => ⟨fun hn => ?_, fun c hc hb => ?_, fun bytes hb hn => ?_⟩,
    fun s t k b h ht hk => ⟨fun hn => ?_, fun hn hc => ?_, fun hn hc => ?_, fun hn h1 h2 => ?_⟩,
    fun s t h hc ht => ⟨fun hk => ?_, fun k ahead behind b hk hb hl => ?_, fun k hk hl => ?_⟩⟩
  · rw [edge, State.sckEdge_of_partial h ht hk (if_neg (by simpa using hn))]
  · rw [edge, State.sckEdge_of_whole h ht hk hc hb, exec_instr hc]
  · have hnone : hostCmdOf bytes = none := by
      cases e : hostCmdOf bytes with
      | none => rfl
      | some c => exact absurd (named_of_hostCmdOf e).2 (hn c (named_of_hostCmdOf e).1)
    rw [edge, State.sckEdge_of_partial h ht hk (by rw [hb, bytesOf_bitsOf, hnone, ite_self])]
  · simp only [edge, State.sckEdge_of_taken h ht hk, hn, if_false]
    rfl
  · change _ = Host.Outcome.next (s.endReply fun c => c == .status)
    rw [edge, State.sckEdge_of_taken h ht hk, State.endReply_of_taken h ht hk (by simp [hc]) (by omega)]
    simp only [hn, if_true]
    rfl
  · change _ = Host.Outcome.next (s.endReply fun c => c == .fetch)
    rw [edge, State.sckEdge_of_taken h ht hk, State.endReply_of_taken h ht hk (by simp [hc]) (by omega)]
    simp only [hn, if_true]
    rfl
  · simp only [edge, State.sckEdge_of_taken h ht hk, hn, if_true, Hp.replyEnded_other h1 h2]
    rfl
  · rw [State.sdo_of_open h hc ht, hk]
  · rw [State.sdo_of_open h hc ht, hk]
    simp [hb, ← hl]
  · rw [State.sdo_of_open h hc ht, hk]
    simp [List.getElem?_eq_none (show (bitsOf k.reply).length ≤ k.shifted by simpa using hl)]

/-! ### ATTN and the notice queue (R129, R136, R138, R139) -/

/-- Settles O19. -/
theorem attentionFollowsQueueAndFlag : Obligations.AttentionFollowsQueueAndFlag := by
  intro s
  refine ⟨fun h => ?_, fun h => ?_⟩
  · simp [State.attn, h]
  · simp [State.attn, h]

/-- Settles O20: the two branches of a post, and what a discard counts in the command under way. -/
theorem postJoinsOrIsCounted : Obligations.PostJoinsOrIsCounted := by
  intro h n
  refine ⟨fun hl => if_pos hl, fun hl => ?_⟩
  have hcount : min 255 (h.overflowCount + 1) = if h.overflowCount < 255 then h.overflowCount + 1 else 255 := by
    split <;> omega
  have hpost : h.post n =
      { h with
        overflow := true
        overflowCount := if h.overflowCount < 255 then h.overflowCount + 1 else 255
        txn := h.txn.map Txn.countDiscard } := by
    rw [Hp.post, if_neg (by simpa [noticeCapacity] using hl), hcount]
  refine ⟨fun ht => ?_, fun t ht hk => ?_, fun t k ht hk => ?_⟩
  · rw [hpost, ht, Option.map_none]
  · have ht' : t.countDiscard = t := by
      obtain ⟨sampled, taken⟩ := t
      simp only at hk
      rw [hk]
      rfl
    rw [hpost, ht, Option.map_some, ht']
  · have ht' : t.countDiscard = { t with taken := some { k with discards := k.discards + 1 } } := by
      simp [Txn.countDiscard, hk]
    rw [hpost, ht, Option.map_some, ht']

end Sys2Proof.Machine
end

section
/-! SUPPORT. Frames and copy records as bytes: the layout of a frame, what is received of a frame sent, what an accepted
frame is, and the parts of a snapshot (O43 to O45, O47). -/

namespace Sys2Proof.Machine

/-! ### The layout (R161, R182) -/

theorem Frame.length_checked (f : Frame) : f.checked.length = 4 + f.payload.body.length := by
  simp [Frame.checked]
  omega

/-- Settles O43. -/
theorem frameLayout : Obligations.FrameLayout := by
  refine ⟨fun f => rfl, fun f => ?_, fun f n => rfl⟩
  have h : (f.bytes.drop 1).take (4 + f.payload.body.length) = f.checked := by
    rw [← f.length_checked]
    exact List.take_left
  rw [h]
  rfl

/-! ### The fields of the header bytes (Table 9.2-1) -/

/-- Class, rank and repeat number are read back from byte 0. -/
theorem byte0_fields (c : BitVec 2) (r : BitVec 4) (n : BitVec 2) :
    (c ++ r ++ n : Byte).extractLsb' 6 2 = c ∧ (c ++ r ++ n : Byte).extractLsb' 2 4 = r ∧
      (c ++ r ++ n : Byte).extractLsb' 0 2 = n := by
  revert c r n
  decide

/-- Byte 0 is made of its class, rank and repeat number. -/
theorem byte0_of_fields (b : Byte) : (b.extractLsb' 6 2 ++ b.extractLsb' 2 4 ++ b.extractLsb' 0 2 : Byte) = b := by
  revert b
  decide

/-- Kind and originator are read back from byte 1. -/
theorem byte1_fields (k o : BitVec 4) :
    (k ++ o : Byte).extractLsb' 4 4 = k ∧ (k ++ o : Byte).extractLsb' 0 4 = o := by
  revert k o
  decide

/-- Byte 1 is made of its kind and originator. -/
theorem byte1_of_fields (b : Byte) : (b.extractLsb' 4 4 ++ b.extractLsb' 0 4 : Byte) = b := by
  revert b
  decide

theorem ofNat_toFin {w : Nat} (x : BitVec w) : BitVec.ofNat w x.toFin.val = x := by simp

theorem toFin_ofNat_station (k : Station) : (BitVec.ofNat 4 k.val).toFin = k := by
  revert k
  decide

theorem toFin_ofNat_repNo (n : Fin 4) : (BitVec.ofNat 2 n.val).toFin = n := by
  revert n
  decide

/-! ### Payloads (Tables 8.1-2 and 9.2-2) -/

theorem zoneByte_of_zoneOf {b : Byte} {z : Zone} (h : zoneOf b = some z) : zoneByte z = b := by
  rw [zoneByte, zoneOf_eq_some.1 h]
  simp

theorem modeByte_of_modeOf {b : Byte} {m : Mode} (h : modeOf b = some m) : m.byte = b := by
  unfold modeOf at h
  split_ifs at h with h1 h2 <;> cases h
  · exact h1.symm
  · exact h2.symm

/-- An order operation read from a kind and a body has that kind and body. -/
theorem orderOf_eq_some {kind : BitVec 4} {body : List Byte} {op : OrderOp} (h : orderOf kind body = some op) :
    op.kind.code = kind ∧ op.body = body := by
  unfold orderOf at h
  split_ifs at h with h1 h2 h3 h4 h5 h6
  · split at h
    · obtain ⟨z, hz, h⟩ := Option.bind_eq_some_iff.1 h
      obtain ⟨m, hm, rfl⟩ := Option.map_eq_some_iff.1 h
      exact ⟨h1.symm, by simp [OrderOp.body, zoneByte_of_zoneOf hz, modeByte_of_modeOf hm]⟩
    · cases h
  · split at h
    · obtain ⟨z, hz, rfl⟩ := Option.map_eq_some_iff.1 h
      exact ⟨h2.symm, by simp [OrderOp.body, zoneByte_of_zoneOf hz]⟩
    · cases h
  all_goals cases h
  · exact ⟨h4.symm, (not_not.1 h3).symm⟩
  · exact ⟨h5.symm, (not_not.1 h3).symm⟩
  · exact ⟨h6.symm, (not_not.1 h3).symm⟩

/-- The class of a payload sent with a repeat number (Table 8.1-1). -/
def Payload.cls (p : Payload) (n : Fin 4) : BitVec 2 :=
  match p with
  | .order _ => if n = 0 then 2 else 3
  | .copyHead _ => 1
  | .copyPart _ => 1
  | .hail => 0

theorem Frame.cls_eq (f : Frame) : f.cls = f.payload.cls f.repNo := by
  unfold Frame.cls Payload.cls
  cases f.payload <;> rfl

/-- The class of an order frame is the one that admits its repeat number. -/
theorem repAdmitted_order {c n : BitVec 2} (hc : c = 2 ∨ c = 3) (h : repAdmitted c n = true) :
    (if n.toFin = 0 then 2 else 3) = c := by
  revert c n
  decide

/-- A payload read from class, kind and body has them. -/
theorem payloadOf_eq_some {c n : BitVec 2} {kind : BitVec 4} {body : List Byte} {p : Payload}
    (h : payloadOf c kind body = some p) (hn : repAdmitted c n = true) :
    p.cls n.toFin = c ∧ p.kind.code = kind ∧ p.body = body := by
  unfold payloadOf at h
  split_ifs at h with h1 h2 h3 h4 h5
  · obtain ⟨op, hop, rfl⟩ := Option.map_eq_some_iff.1 h
    obtain ⟨hk, hb⟩ := orderOf_eq_some hop
    exact ⟨repAdmitted_order h1 hn, hk, hb⟩
  all_goals cases h
  · exact ⟨h2.symm, h3.1.symm, rfl⟩
  · exact ⟨h2.symm, h4.1.symm, rfl⟩
  · have hc : ∀ c : BitVec 2, ¬ (c = 2 ∨ c = 3) → ¬ c = 1 → 0 = c := by decide
    exact ⟨hc c h1 h2, h5.1.symm, h5.2.symm⟩

/-- A payload with a body of the length its kind requires (Table 8.1-2). -/
abbrev Payload.wellFormed (p : Payload) : Prop :=
  match p with
  | .order _ => True
  | .copyHead body => body.length = 9
  | .copyPart body => 6 ≤ body.length ∧ body.length ≤ 24
  | .hail => True

/-- A well-formed payload is read from its own class, kind and body. -/
theorem payloadOf_self {p : Payload} (h : p.wellFormed) (n : Fin 4) :
    payloadOf (p.cls n) p.kind.code p.body = some p := by
  cases p with
  | order op =>
    have hc : (Payload.order op).cls n = 2 ∨ (Payload.order op).cls n = 3 := by
      unfold Payload.cls
      split_ifs <;> simp
    change payloadOf _ op.kind.code op.body = _
    rw [payloadOf, if_pos hc, orderOf_body]
    rfl
  | copyHead body => simp [payloadOf, Payload.cls, Payload.kind, Payload.body, h]
  | copyPart body =>
    have h6 : 6 ≤ body.length := h.1
    simp [payloadOf, Payload.cls, Payload.kind, Payload.body, FrameKind.code, h6]
  | hail => rfl

theorem repAdmitted_self (p : Payload) (n : Fin 4) : repAdmitted (p.cls n) (BitVec.ofNat 2 n.val) = true := by
  cases p with
  | order op =>
    change repAdmitted (if n = 0 then 2 else 3) _ = true
    revert n
    decide
  | _ => rfl

theorem Payload.length_body {p : Payload} (h : p.wellFormed) : p.body.length ≤ 24 := by
  cases p with
  | order op => cases op <;> simp [Payload.body, OrderOp.body]
  | copyHead body => exact (show body.length = 9 from h) ▸ (by decide)
  | copyPart body => exact h.2
  | hail => simp [Payload.body]

/-! ### Frames from their header bytes and body (Table 8.3-1) -/

/-- A well-formed frame is read back from its header bytes and its body. -/
theorem frameOf_self {f : Frame} (h : f.payload.wellFormed) :
    frameOf f.byte0 (f.payload.kind.code ++ BitVec.ofNat 4 f.orig.val) (f.turn.extractLsb' 8 8) (f.turn.extractLsb' 0 8)
      f.payload.body = some f := by
  obtain ⟨hc, hr, hn⟩ := byte0_fields f.cls (rankOf f.orig) (BitVec.ofNat 2 f.repNo.val)
  obtain ⟨hk, ho⟩ := byte1_fields f.payload.kind.code (BitVec.ofNat 4 f.orig.val)
  have hp := payloadOf_self h f.repNo
  rw [← f.cls_eq] at hp
  have ha := repAdmitted_self f.payload f.repNo
  rw [← f.cls_eq] at ha
  have hl := Payload.length_body h
  simp only [frameOf, Frame.byte0, hc, hr, hn, hk, ho, toFin_ofNat_station, toFin_ofNat_repNo, ha, hp, wordOf_extract,
    Option.map_some]
  rw [if_neg (by simp; omega)]

/-- What is read as a frame spells the frame's own header bytes and body. -/
theorem frameOf_eq_some {b0 b1 b3 b4 : Byte} {body : List Byte} {f : Frame} (h : frameOf b0 b1 b3 b4 body = some f) :
    f.byte0 = b0 ∧ (f.payload.kind.code ++ BitVec.ofNat 4 f.orig.val : Byte) = b1 ∧ f.payload.body = body ∧
      f.turn = wordOf b3 b4 ∧ body.length ≤ 24 := by
  unfold frameOf at h
  simp only at h
  split_ifs at h with hc
  simp only [not_or, not_not, Bool.not_eq_false, not_lt] at hc
  obtain ⟨hrank, hrep, hlen⟩ := hc
  obtain ⟨p, hp, rfl⟩ := Option.map_eq_some_iff.1 h
  obtain ⟨hcls, hkind, hbody⟩ := payloadOf_eq_some hp hrep
  refine ⟨?_, ?_, hbody, rfl, hlen⟩
  · rw [Frame.byte0, Frame.cls_eq, hcls, ← hrank, ofNat_toFin, byte0_of_fields]
  · rw [hkind, ofNat_toFin, byte1_of_fields]

/-! ### A frame on the line (R159, R162) -/

/-- The bits of a frame: byte 0, the checked bytes, the check. -/
theorem Frame.bits_eq (f : Frame) : f.bits = byteBits f.byte0 ++ (bitsOf f.checked ++ bitsOf (wordBytes f.check)) := by
  simp [Frame.bits, Frame.bytes, bitsOf_cons]

theorem length_byteBits (b : Byte) : (byteBits b).length = 8 := rfl

theorem Frame.length_bits (f : Frame) : f.bits.length = 8 * (7 + f.payload.body.length) := by
  rw [f.bits_eq, List.length_append, List.length_append, length_bitsOf, length_bitsOf, f.length_checked, length_byteBits,
    length_wordBytes]
  omega

/-- The body length is the third byte of what has been received, once it is there. -/
theorem bodyLengthOf_cons (b0 b1 b2 : Byte) (rest : List Bool) :
    bodyLengthOf (bitsOf [b0, b1, b2] ++ rest) = b2.toNat := by
  have ht : (bitsOf [b0, b1, b2] ++ rest).take 24 = bitsOf [b0, b1, b2] := List.take_left' (by simp)
  rw [bodyLengthOf, ht, bytesOf_bitsOf]

theorem Frame.bodyLengthOf_take {f : Frame} (h : f.payload.body.length ≤ 24) {n : Nat} (hn : 24 ≤ n) :
    bodyLengthOf (f.bits.take n) = f.payload.body.length := by
  have e : f.bits =
      bitsOf [f.byte0, f.payload.kind.code ++ BitVec.ofNat 4 f.orig.val, BitVec.ofNat 8 f.payload.body.length] ++
        bitsOf (wordBytes f.turn ++ f.payload.body ++ wordBytes f.check) := by
    rw [← bitsOf_append]
    simp [Frame.bits, Frame.bytes, Frame.checked]
  rw [e, List.take_append, List.take_of_length_le (by simpa using hn), bodyLengthOf_cons, BitVec.toNat_ofNat]
  exact Nat.mod_eq_of_lt (by omega)

/-- Which of a frame's bits enter the check: those of header byte 1 to the last body byte. -/
theorem Frame.inCheckedBytes_take {f : Frame} (h : f.payload.body.length ≤ 24) {n : Nat} (hn : n ≤ f.bits.length) :
    inCheckedBytes (f.bits.take n) = decide (8 ≤ n ∧ n < 8 * (5 + f.payload.body.length)) := by
  have hl : (f.bits.take n).length = n := by simp [hn]
  rw [inCheckedBytes, hl, Bool.eq_iff_iff]
  by_cases h40 : n < 40
  · simp only [h40, decide_true, Bool.true_or, Bool.and_true, decide_eq_true_eq]
    omega
  · rw [Frame.bodyLengthOf_take h (by omega)]
    simp only [h40, decide_false, Bool.false_or, Bool.and_eq_true, decide_eq_true_eq]

/-- Bits that all enter the check, or none of them, are appended, with the register over them in the first case. -/
theorem foldl_push {l : List Bool} {r : Reception} (c : Bool)
    (h : ∀ n, n < l.length → inCheckedBytes (r.bits ++ l.take n) = c) :
    l.foldl Reception.push r =
      { bits := r.bits ++ l, crc := if c then crcBits r.crc l else r.crc, mark := r.mark } := by
  induction l generalizing r with
  | nil => cases c <;> simp [crcBits]
  | cons b l ih =>
    have h0 : inCheckedBytes r.bits = c := by simpa using h 0 (by simp)
    have hnext : ∀ n, n < l.length → inCheckedBytes ((r.push b).bits ++ l.take n) = c := fun n hn => by
      simpa [Reception.push] using h (n + 1) (by simpa using hn)
    rw [List.foldl_cons, ih hnext]
    cases c <;> simp [Reception.push, h0, crcBits]

/-- A frame's bits pushed one after another give its bits and its check. -/
theorem Frame.foldl_push_bits {f : Frame} (h : f.payload.body.length ≤ 24) (mark : Bool) :
    f.bits.foldl Reception.push (Reception.start mark) = { bits := f.bits, crc := f.check, mark := mark } := by
  have hlen := f.length_bits
  have inside (a l b : List Bool) (e : f.bits = a ++ (l ++ b)) (c : Bool)
      (hc : ∀ n, a.length ≤ n → n < a.length + l.length → decide (8 ≤ n ∧ n < 8 * (5 + f.payload.body.length)) = c) :
      ∀ n, n < l.length → inCheckedBytes (a ++ l.take n) = c := fun n hn => by
    have et : a ++ l.take n = f.bits.take (a.length + n) := by
      rw [e, List.take_length_add_append, List.take_append_of_le_length (by omega)]
    have hle : a.length + n ≤ f.bits.length := by
      rw [e]
      simp only [List.length_append]
      omega
    rw [et, Frame.inCheckedBytes_take h hle]
    exact hc _ (by omega) (by omega)
  have hb := f.bits_eq
  have h1 := inside [] (byteBits f.byte0) _ hb false fun n _ hn => by
    simp only [List.length_nil, length_byteBits] at hn
    simp
    omega
  have h2 := inside (byteBits f.byte0) (bitsOf f.checked) _ hb true fun n hn hn' => by
    simp only [length_byteBits, length_bitsOf, f.length_checked] at hn hn'
    simp
    omega
  have h3 := inside (byteBits f.byte0 ++ bitsOf f.checked) (bitsOf (wordBytes f.check)) [] (by simpa using hb) false
    fun n hn hn' => by
      simp only [List.length_append, length_byteBits, length_bitsOf, f.length_checked] at hn hn'
      simp
      omega
  have s1 : (byteBits f.byte0).foldl Reception.push (Reception.start mark) =
      { bits := byteBits f.byte0, crc := 0xFFFF#16, mark := mark } := by
    rw [Reception.start, foldl_push false h1]
    simp
  have s2 : (bitsOf f.checked).foldl Reception.push { bits := byteBits f.byte0, crc := 0xFFFF#16, mark := mark } =
      { bits := byteBits f.byte0 ++ bitsOf f.checked, crc := f.check, mark := mark } := by
    rw [foldl_push true h2, if_pos rfl]
    rfl
  rw [hb, List.foldl_append, List.foldl_append, s1, s2, foldl_push false h3, List.append_assoc]
  simp only [Bool.false_eq_true, if_false]

/-- What is received of a frame with a body of its kind's length is accepted as it. -/
theorem Frame.accept_bits {f : Frame} (h : f.payload.wellFormed) : acceptFrame f.bits f.check = some f := by
  have hL := Payload.length_body h
  have hlen := f.length_bits
  have hbody : bodyLengthOf f.bits = f.payload.body.length := by
    rw [← f.bodyLengthOf_take hL (n := f.bits.length) (by omega), List.take_length]
  have hnat : (BitVec.ofNat 8 f.payload.body.length).toNat = f.payload.body.length := by
    rw [BitVec.toNat_ofNat]
    exact Nat.mod_eq_of_lt (by omega)
  have hbytes : bytesOf f.bits = f.byte0 :: (f.payload.kind.code ++ BitVec.ofNat 4 f.orig.val) ::
      BitVec.ofNat 8 f.payload.body.length :: f.turn.extractLsb' 8 8 :: f.turn.extractLsb' 0 8 ::
      (f.payload.body ++ wordBytes f.check) := by
    rw [Frame.bits, bytesOf_bitsOf]
    simp [Frame.bytes, Frame.checked, wordBytes]
  have hdrop : (f.payload.body ++ wordBytes f.check).drop f.payload.body.length =
      [f.check.extractLsb' 8 8, f.check.extractLsb' 0 8] := List.drop_left
  have htake : (f.payload.body ++ wordBytes f.check).take f.payload.body.length = f.payload.body := List.take_left
  rw [acceptFrame, if_neg (by rw [hbody]; omega), hbytes]
  simp only [hnat, hdrop, htake, wordOf_extract, if_true]
  exact frameOf_self h

/-- Settles O44. -/
theorem sentFramesAreAccepted : Obligations.SentFramesAreAccepted := by
  intro f mark h
  have hw : f.payload.wellFormed := h
  have hr := Frame.foldl_push_bits (Payload.length_body hw) mark
  intro r
  have hr' : r = { bits := f.bits, crc := f.check, mark := mark } := hr
  clear_value r
  subst hr'
  refine ⟨rfl, rfl, ?_⟩
  dsimp only
  exact Frame.accept_bits hw

/-! ### What the CLOSE accepts (R163) -/

/-- The bytes of bits that the CLOSE accepts: a header, a body of the length it gives, the check, and their frame. -/
theorem acceptFrame_eq_some {bits : List Bool} {crc : Check} {f : Frame} (h : acceptFrame bits crc = some f) :
    ∃ b0 b1 b2 b3 b4 c1 c0 body, bits = bitsOf ([b0, b1, b2, b3, b4] ++ body ++ [c1, c0]) ∧ body.length = b2.toNat ∧
      wordOf c1 c0 = crc ∧ frameOf b0 b1 b3 b4 body = some f := by
  unfold acceptFrame at h
  split_ifs at h with hc
  simp only [not_or, not_not] at hc
  obtain ⟨h8, -, -⟩ := hc
  split at h
  · rename_i b0 b1 b2 b3 b4 rest hbytes
    split at h
    · rename_i c1 c0 hdrop
      split_ifs at h with hcrc
      have hrest : rest.take b2.toNat ++ [c1, c0] = rest := by rw [← hdrop, List.take_append_drop]
      have hl : (rest.take b2.toNat).length = b2.toNat := by
        have := congrArg List.length hdrop
        simp only [List.length_drop, List.length_cons, List.length_nil] at this
        rw [List.length_take]
        omega
      refine ⟨b0, b1, b2, b3, b4, c1, c0, rest.take b2.toNat, ?_, hl, hcrc, h⟩
      rw [← bitsOf_bytesOf bits h8, hbytes, List.append_assoc, hrest]
      rfl
    · cases h
  · cases h

/-- Settles O45: the accepted frame has the header bytes, the body and the turn received, so its check is the one
received too. -/
theorem acceptedFramesAreWhatWasReceived : Obligations.AcceptedFramesAreWhatWasReceived := by
  intro bits f h
  obtain ⟨b0, b1, b2, b3, b4, c1, c0, body, hbits, hlen, hcrc, hf⟩ := acceptFrame_eq_some h
  obtain ⟨h0, h1, hbody, hturn, h24⟩ := frameOf_eq_some hf
  have h2 : BitVec.ofNat 8 f.payload.body.length = b2 := by
    rw [hbody, hlen]
    simp
  have hchecked : f.checked = [b1, b2, b3, b4] ++ body := by
    rw [Frame.checked, h1, h2, hbody, hturn, wordBytes_wordOf]
    rfl
  have hcovered : (bits.drop 8).take (bits.length - 24) = bitsOf f.checked := by
    have e : bits = byteBits b0 ++ (bitsOf f.checked ++ bitsOf [c1, c0]) := by
      rw [hbits, hchecked, ← bitsOf_append, ← bitsOf_cons]
      simp
    have hl : bits.length - 24 = (bitsOf f.checked).length := by
      rw [e]
      simp only [List.length_append, length_byteBits, length_bitsOf, List.length_cons, List.length_nil]
      omega
    rw [hl, e, List.drop_left' (length_byteBits b0), List.take_left]
  have hcheck : f.check = wordOf c1 c0 := by
    rw [hcrc, hcovered]
    rfl
  refine ⟨?_, hbody ▸ h24⟩
  rw [Frame.bits, Frame.bytes, h0, hcheck, hchecked, wordBytes_wordOf, hbits]
  simp

/-! ### The parts of a snapshot (R78, R90, R188 to R190) -/

/-- The records in their order. -/
theorem flatten_packFrom (cur : List CopyRec) (size : Nat) (recs : List CopyRec) :
    (packFrom cur size recs).flatten = cur ++ recs := by
  induction recs generalizing cur size with
  | nil =>
    unfold packFrom
    split_ifs with h <;> simp [h]
  | cons r rs ih =>
    unfold packFrom
    split_ifs with h <;> simp [ih]

/-- No part is empty or longer than 22 bytes. -/
theorem packFrom_bounds {cur : List CopyRec} {size : Nat} {recs : List CopyRec}
    (hsize : (cur.map CopyRec.size).sum = size) (hle : size ≤ 22) (hr : ∀ r ∈ recs, r.size ≤ 22) :
    ∀ p ∈ packFrom cur size recs, p ≠ [] ∧ (p.map CopyRec.size).sum ≤ 22 := by
  induction recs generalizing cur size with
  | nil =>
    intro p hp
    unfold packFrom at hp
    split_ifs at hp with h
    · cases hp
    · rw [List.mem_singleton] at hp
      exact ⟨hp ▸ h, by rw [hp, hsize]; exact hle⟩
  | cons r rs ih =>
    have hr' := fun q hq => hr q (List.mem_cons_of_mem _ hq)
    intro p hp
    unfold packFrom at hp
    split_ifs at hp with h
    · exact ih (by simp [hsize]) h hr' p hp
    · rcases List.mem_cons.1 hp with rfl | hp
      · refine ⟨?_, by rw [hsize]; exact hle⟩
        rintro rfl
        have := hr r (List.mem_cons_self ..)
        simp at hsize
        omega
      · exact ih (by simp) (hr r (List.mem_cons_self ..)) hr' p hp

/-- The part under way begins the first of the parts. -/
theorem packFrom_head {cur : List CopyRec} (hc : cur ≠ []) (size : Nat) (recs : List CopyRec) :
    ∃ more parts, packFrom cur size recs = (cur ++ more) :: parts := by
  induction recs generalizing cur size with
  | nil => exact ⟨[], [], by simp [packFrom, hc]⟩
  | cons r rs ih =>
    unfold packFrom
    split_ifs
    · obtain ⟨more, parts, e⟩ := ih (cur := cur ++ [r]) (by simp) (size + r.size)
      exact ⟨r :: more, parts, by rw [e]; simp⟩
    · exact ⟨[], packFrom [r] r.size rs, by simp⟩

/-- The next part's first record has no room in the part before it. -/
abbrev noRoomFor (p q : List CopyRec) : Prop :=
  ∀ r rest, q = r :: rest → 22 < (p.map CopyRec.size).sum + r.size

/-- The cut is greedy. -/
theorem packFrom_greedy {cur : List CopyRec} {size : Nat} (hsize : (cur.map CopyRec.size).sum = size)
    (recs : List CopyRec) : (packFrom cur size recs).IsChain noRoomFor := by
  induction recs generalizing cur size with
  | nil =>
    unfold packFrom
    split_ifs <;> simp
  | cons r rs ih =>
    unfold packFrom
    split_ifs with h
    · exact ih (by simp [hsize])
    · obtain ⟨more, parts, e⟩ := packFrom_head (cur := [r]) (by simp) r.size rs
      have hchain := ih (cur := [r]) (size := r.size) (by simp)
      rw [e] at hchain ⊢
      refine List.isChain_cons_cons.2 ⟨fun q rest hq => ?_, hchain⟩
      obtain ⟨rfl, -⟩ := List.cons.inj hq
      rw [hsize]
      omega

/-- The bytes of records are read back as those records. -/
theorem readRecsUpTo_bytes {recs : List CopyRec} (h : ∀ r ∈ recs, r.queue.length ≤ 31) {fuel : Nat}
    (hf : (recs.flatMap CopyRec.bytes).length ≤ fuel) : readRecsUpTo fuel (recs.flatMap CopyRec.bytes) = some recs := by
  induction recs generalizing fuel with
  | nil => cases fuel <;> rfl
  | cons r rs ih =>
    have hlen : (r.bytes ++ rs.flatMap CopyRec.bytes).length = 4 + r.queue.length + (rs.flatMap CopyRec.bytes).length := by
      simp [CopyRec.size]
    rw [List.flatMap_cons, hlen] at hf
    obtain ⟨fuel, rfl⟩ : ∃ n, fuel = n + 1 := ⟨fuel - 1, by omega⟩
    have hread := readRec_bytes r (h r (List.mem_cons_self ..)) (rs.flatMap CopyRec.bytes)
    have hrest := ih (fun q hq => h q (List.mem_cons_of_mem _ hq)) (fuel := fuel) (by omega)
    have hstep : readRecsUpTo (fuel + 1) (r.bytes ++ rs.flatMap CopyRec.bytes) =
        match readRec (r.bytes ++ rs.flatMap CopyRec.bytes) with
        | none => none
        | some (r, rest) => (readRecsUpTo fuel rest).map (r :: ·) := rfl
    rw [List.flatMap_cons, hstep, hread]
    simp only [hrest, Option.map_some]

/-- Settles O47. -/
theorem snapshotsAreCutAndReadBack : Obligations.SnapshotsAreCutAndReadBack := by
  refine ⟨fun recs h => ⟨?_, ?_, ?_⟩, fun recs h => readRecsUpTo_bytes h le_rfl⟩
  · exact flatten_packFrom [] 0 recs
  · refine packFrom_bounds rfl (by omega) fun r hr => ?_
    have := h r hr
    unfold CopyRec.size
    omega
  · intro ahead behind p q r rest hp hq
    have hchain := packFrom_greedy (cur := []) (size := 0) rfl recs
    rw [show packFrom [] 0 recs = _ from hp] at hchain
    exact (List.isChain_append_cons_cons.1 hchain).2.1 r rest hq

end Sys2Proof.Machine
end

section
/-! SUPPORT. FRAME_CLOSE of order frames that are not applied, of HAILs and copy frames: the classes of order frames, the lag
event in the words of the statements, and how a frame is handed over (O27 to O29, O34). -/

namespace Sys2Proof.Machine

/-! ### The end of a closure (R43) -/

/-- Some station of the set is another than `self`. -/
theorem StationSet.del_ne_zero_iff (s : StationSet) (self : Station) :
    StationSet.del s self ≠ 0 ↔ ∃ k : Station, k ≠ self ∧ StationSet.has s k = true := by
  rw [Ne, StationSet.eq_zero_iff, not_forall]
  refine exists_congr fun k => ?_
  rw [Bool.not_eq_false, StationSet.has_del, Bool.and_eq_true, Bool.not_eq_true', decide_eq_false_iff_not, and_comm,
    ne_comm]

/-- No station of the set other than `self` is in the roll. -/
theorem StationSet.and_del_eq_zero_iff (roll s : StationSet) (self : Station) :
    roll &&& StationSet.del s self = 0 ↔
      ∀ k : Station, k ≠ self → StationSet.has s k = true → StationSet.has roll k = false := by
  rw [StationSet.eq_zero_iff]
  refine forall_congr' fun k => ?_
  simp only [StationSet.has_and, StationSet.has_del, Bool.and_eq_false_iff, Bool.not_eq_false', decide_eq_true_eq]
  cases StationSet.has s k <;> cases StationSet.has roll k <;> simp [eq_comm]

/-- Settles O34: the three tests of the final roll in their order. -/
theorem closureEndsByTheFinalRoll : Obligations.ClosureEndsByTheFinalRoll := by
  intro c self
  refine ⟨fun h => ?_, fun roll h => ?_⟩
  · rcases h with h | h <;> simp [ClosureRecord.ending, h]
  · intro alone missing
    have halone : (c.own && StationSet.del c.expected self != 0 && (roll &&& StationSet.del c.expected self == 0)) = true ↔
        alone := by
      rw [Bool.and_eq_true, Bool.and_eq_true, bne_iff_ne, beq_iff_eq, StationSet.del_ne_zero_iff,
        StationSet.and_del_eq_zero_iff, and_assoc]
    have hmissing : StationSet.has (StationSet.minus c.expected roll) self = true ↔ missing := by
      simp [missing]
    have hend : c.ending self =
        if (c.own && StationSet.del c.expected self != 0 && (roll &&& StationSet.del c.expected self == 0)) = true then
          .lag .staleSelf
        else if StationSet.has (StationSet.minus c.expected roll) self = true then .lag .selfEvicted
        else .evict (StationSet.minus c.expected roll) := by
      simp only [ClosureRecord.ending, h, Option.getD_some]
    rw [hend]
    refine ⟨fun ha => if_pos (halone.2 ha), fun ha hm => ?_, fun ha hm => ?_⟩
    · rw [if_neg (fun x => ha (halone.1 x)), if_pos (hmissing.2 hm)]
    · rw [if_neg (fun x => ha (halone.1 x)), if_neg (fun x => hm (hmissing.1 x))]
      rfl

/-! ### The lag event in the words of the statements (R65) -/

/-- A lag event in a state with the frames, the Request Unit and the Copy Unit of `s` and the notices `before` posted. -/
theorem State.lagsTo_lagEvent {s u : State} {before : List Notice} {turn : Turn} (why : LagReason)
    (htx : s.fe.tx = none) (hfe : u.fe = s.fe) (hru : u.ru = s.ru) (hcu : u.cu = s.cu)
    (hhp : u.hp = s.hp.posts before) (hturn : u.tc.turn = turn) (hlif : u.lif = s.lif) (hpins : u.pins = s.pins)
    (hpending : u.pending = s.pending) : s.lagsTo before turn why (u.lagEvent why) := by
  obtain ⟨htc, hztu, hcu', hru', hfe', hhp', hlif', hpins', hpending', -⟩ := u.lagEvent_spec why
  have hauto : u.hp.autoRejoin = s.hp.autoRejoin := by rw [hhp, Hp.posts_autoRejoin]
  have hlost : ∀ z : Zone, (u.lagEvent why).ru.ticket z = .none := fun z => by
    rw [hru']
    exact (Ru.loseEach_ticket u.tc.turn .lag (List.finRange 64) u.ru z).trans (if_pos (List.mem_finRange z))
  refine ⟨?_, fun z => ⟨?_, hlost z⟩, ?_, ?_, ?_, ?_, ?_, ?_, ?_, ?_, hlif'.trans hlif, hpins'.trans hpins,
    hpending'.trans hpending⟩
  · rw [htc, hauto]
  · rw [hztu]
    exact Ztu.zone_reset z
  · rw [hztu]
    rfl
  · rw [hru']
  · rw [hru']
  · rw [hru']
  · rw [hru']
  · rw [hhp', hhp, hru, hturn, Hp.posts_append, Hp.posts_append, Hp.posts_append, Hp.posts_cons, Hp.posts_append]
    rfl
  · rw [hcu', hcu]
    rfl
  · rw [hfe', hfe, hauto]
    simp only [Fe.withdraw_of_tx_none, htx, Fe.dropPending]
    split <;> simp_all

/-- The hold that the CLOSE sets after the handling. -/
theorem State.lagsTo_setHold {s t : State} {before : List Notice} {turn : Turn} {why : LagReason}
    (h : s.lagsTo before turn why t) : s.setHold.lagsTo before turn why t.setHold := by
  obtain ⟨h1, h2, h3, h4, h5, h6, h7, h8, h9, hfe, h11, h12, h13⟩ := h
  refine ⟨h1, h2, h3, h4, h5, h6, h7, h8, h9, ?_, h11, h12, h13⟩
  rw [State.setHold_fe, hfe]
  rfl

/-! ### The classes of Table 2.2-1 -/

theorem Tc.classify_of_turn {t : Tc} {turn : Turn} (h : turn = t.turn) (orig : Station) (check : Check) :
    t.classify orig turn check = .apply := by
  have hd : (turn - t.turn).toNat = 0 := by simp [h]
  rw [Tc.classify, if_pos hd]

theorem Tc.classify_of_ahead {t : Tc} {turn : Turn} (h1 : 1 ≤ (turn - t.turn).toNat) (h2 : (turn - t.turn).toNat ≤ 32767)
    (orig : Station) (check : Check) : t.classify orig turn check = .gap := by
  rw [Tc.classify, if_neg (by omega), if_neg (by omega), if_pos h2]

theorem Tc.classify_of_far {t : Tc} {turn : Turn} (h1 : 32768 ≤ (turn - t.turn).toNat)
    (h2 : (turn - t.turn).toNat ≤ 65534) (orig : Station) (check : Check) : t.classify orig turn check = .stale := by
  rw [Tc.classify, if_neg (by omega), if_neg (by omega), if_neg (by omega)]

/-- The frame one turn behind is the last applied. -/
abbrev Tc.knows (t : Tc) (orig : Station) (check : Check) : Prop :=
  ∃ l, t.lastApplied = some l ∧ l.orig = orig ∧ l.check = check

theorem Tc.knows_of_eq {t : Tc} {orig : Station} {turn : Turn} {check : Check}
    (h : t.lastApplied = some { orig := orig, turn := turn, check := check }) : t.knows orig check :=
  ⟨_, h, rfl, rfl⟩

theorem Tc.classify_of_known {t : Tc} {turn : Turn} {orig : Station} {check : Check}
    (h : (turn - t.turn).toNat = 65535) (hk : t.knows orig check) : t.classify orig turn check = .recognised := by
  obtain ⟨l, hl, ho, hc⟩ := hk
  rw [Tc.classify, if_neg (by omega), if_pos h, hl]
  exact if_pos ⟨ho, hc⟩

theorem Tc.classify_of_unknown {t : Tc} {turn : Turn} {orig : Station} {check : Check}
    (h : (turn - t.turn).toNat = 65535) (hk : ¬ t.knows orig check) : t.classify orig turn check = .stale := by
  rw [Tc.classify, if_neg (by omega), if_pos h]
  cases hl : t.lastApplied with
  | none => rfl
  | some l => exact if_neg fun e => hk ⟨l, hl, e⟩

/-! ### A station in step (R33 to R36) -/

theorem State.handOrder_of_inStep {s : State} (h : s.inStep) (f : Frame) (op : OrderOp) (own : Option Source) :
    s.handOrder f op own = s.orderInStep f op own := by
  unfold State.handOrder
  rcases h with h | h | h <;> rw [h]

theorem StationState.confirms_eq (st : StationState) : st.confirms = (st == .member || st == .leaving) := by
  cases st <;> rfl

/-- The CLOSE of another station's order frame in step with no closure pending: it is handled by its class. -/
theorem exec_frameClose_of_order {s : State} {f : Frame} {op : OrderOp} (h : s.receives f) (hp : f.payload = .order op)
    (hi : s.inStep) (hc : s.noClosure) : exec .frameClose s = .next (s.atClose.orderInStep f op none).setHold := by
  rw [exec_frameClose_of_noClosure h hc, hp]
  exact congrArg (fun t => Host.Outcome.next t.setHold) (State.handOrder_of_inStep (s := s.atClose) hi f op none)

/-- At the CLOSE of another station's frame nothing of the own is on the line. -/
theorem State.receives.tx_none {s : State} {f : Frame} (h : s.receives f) : s.fe.tx = none := h.2.2.2.1

theorem State.orderInStep_of_gap {s : State} {f : Frame} {op : OrderOp} {own : Option Source}
    (h : s.tc.classify f.orig f.turn f.check = .gap) : s.orderInStep f op own = s.lagEvent .gap := by
  rw [State.orderInStep, h]

theorem State.orderInStep_of_stale {s : State} {f : Frame} {op : OrderOp} {own : Option Source}
    (h : s.tc.classify f.orig f.turn f.check = .stale) : s.orderInStep f op own = s := by
  rw [State.orderInStep, h]

theorem State.orderInStep_of_recognised {s : State} {f : Frame} {op : OrderOp} {own : Option Source}
    (h : s.tc.classify f.orig f.turn f.check = .recognised) : s.orderInStep f op own = s.recogniseRepeat f := by
  rw [State.orderInStep, h]

/-- Settles O27. -/
theorem gapIsALagEvent : Obligations.GapIsALagEvent := by
  intro s f op h hp hi hc h1 h2
  have hlag : s.atClose.orderInStep f op none = s.atClose.lagEvent .gap :=
    State.orderInStep_of_gap (Tc.classify_of_ahead h1 h2 _ _)
  refine ⟨_, exec_frameClose_of_order h hp hi hc, ?_⟩
  rw [hlag]
  exact State.lagsTo_setHold (s := s.atClose)
    (State.lagsTo_lagEvent .gap h.tx_none rfl rfl rfl (Hp.posts_nil _).symm rfl rfl rfl rfl)

/-! ### Repeats (R35, R41) -/

theorem repSeen_max (a b : Fin 4) : max a b = if a < b then b else a := by
  revert a b
  decide

/-- A repeat whose closure has been taken is a lag event. -/
theorem State.recogniseRepeat_of_noClosure {s : State} (h : s.noClosure) (f : Frame) :
    s.recogniseRepeat f = s.lagEvent .rollUnreadable := by
  unfold State.recogniseRepeat
  unfold State.noClosure at h
  cases hc : s.tc.closure with
  | none => rfl
  | some c =>
    rw [hc] at h
    exact if_pos h

/-- A repeat of the frame under closure raises the repeat number seen and asks for the slot. -/
theorem State.recogniseRepeat_of_pending {s : State} {c : ClosureRecord} (hc : s.tc.closure = some c)
    (hp : c.closed = false) (f : Frame) :
    s.recogniseRepeat f =
      { s with
        tc := { s.tc with closure := some { c with repSeen := if c.repSeen < f.repNo then f.repNo else c.repSeen } }
        fe := { s.fe with
          rollUse := .order
          slotRequest := (s.tc.state == .member || s.tc.state == .leaving) && !c.foreign } } := by
  unfold State.recogniseRepeat
  simp only [hc, hp, Bool.false_eq_true, if_false, repSeen_max, StationState.confirms_eq]
  rfl

/-- A repeat of the frame under closure does not take the closure. -/
theorem State.closeBefore_of_repeat {s : State} {c : ClosureRecord} {f : Frame} {op : OrderOp}
    (hc : s.tc.closure = some c) (hp : f.payload = .order op) (ho : c.orig = f.orig) (ht : c.turn = f.turn)
    (hk : c.check = f.check) : s.closeBefore f = s := by
  have hr : (f.isOrder && c.isRepeat f) = true := by simp [Frame.isOrder, hp, ClosureRecord.isRepeat, ho, ht, hk]
  unfold State.closeBefore
  rw [hc]
  exact if_pos hr

/-- A repeat of the frame under closure, handed over in step. -/
theorem State.handFrame_of_repeat {s : State} {c : ClosureRecord} {f : Frame} {op : OrderOp} (hi : s.inStep)
    (hc : s.tc.closure = some c) (hp : f.payload = .order op) (ho : c.orig = f.orig) (ht : c.turn = f.turn)
    (hk : c.check = f.check) (own : Option Attempt) (hd : (f.turn - s.tc.turn).toNat = 65535)
    (hl : s.tc.lastApplied = some { orig := f.orig, turn := f.turn, check := f.check }) :
    s.handFrame f own = s.recogniseRepeat f := by
  have hclass := Tc.classify_of_known hd (Tc.knows_of_eq hl)
  unfold State.handFrame
  rw [State.closeBefore_of_repeat hc hp ho ht hk, hp]
  change s.handOrder f op _ = _
  rw [State.handOrder_of_inStep hi, State.orderInStep_of_recognised hclass]

/-- An own frame received back whole leaves the selector. -/
theorem State.attemptSent_of_unwithdrawn {a : Attempt} (h : a.withdrawn = false) (s : State) :
    s.attemptSent a = s.onFe fun f => { f.dropPending a.source with tx := none } := by
  unfold State.attemptSent
  rw [h]
  rfl

/-- Another station's order frame behind or far off (R33, R35, R36). -/
theorem exec_frameClose_of_stale {s : State} {f : Frame} {op : OrderOp} (h : s.receives f) (hp : f.payload = .order op)
    (hi : s.inStep) (hc : s.noClosure) (hs : s.tc.classify f.orig f.turn f.check = .stale) :
    exec .frameClose s = .next s.atClose.setHold := by
  have e : s.atClose.orderInStep f op none = s.atClose := State.orderInStep_of_stale hs
  rw [exec_frameClose_of_order h hp hi hc, e]

/-- Another station's recognised repeat whose closure has been taken (R35). -/
theorem exec_frameClose_of_lateRepeat {s : State} {f : Frame} {op : OrderOp} (h : s.receives f)
    (hp : f.payload = .order op) (hi : s.inStep) (hc : s.noClosure)
    (hs : s.tc.classify f.orig f.turn f.check = .recognised) :
    exec .frameClose s = .next (s.atClose.lagEvent .rollUnreadable).setHold := by
  have e : s.atClose.orderInStep f op none = s.atClose.recogniseRepeat f := State.orderInStep_of_recognised hs
  have e' : s.atClose.recogniseRepeat f = s.atClose.lagEvent .rollUnreadable :=
    State.recogniseRepeat_of_noClosure (s := s.atClose) hc f
  rw [exec_frameClose_of_order h hp hi hc, e, e']

/-- Another station's repeat of the frame under closure (R35). -/
theorem exec_frameClose_of_repeat {s : State} {c : ClosureRecord} {f : Frame} {op : OrderOp} (h : s.receives f)
    (hp : f.payload = .order op) (hi : s.inStep) (hc : s.tc.closure = some c) (hcl : c.closed = false)
    (ho : c.orig = f.orig) (ht : c.turn = f.turn) (hk : c.check = f.check) (hd : (f.turn - s.tc.turn).toNat = 65535)
    (hl : s.tc.lastApplied = some { orig := f.orig, turn := f.turn, check := f.check }) :
    exec .frameClose s =
      .next { s.atClose with
        tc := { s.tc with closure := some { c with repSeen := if c.repSeen < f.repNo then f.repNo else c.repSeen } }
        fe := { s.atClose.fe with
          hold := true
          rollUse := .order
          slotRequest := (s.tc.state == .member || s.tc.state == .leaving) && !c.foreign } } := by
  have horder : f.isOrder = true := by simp [Frame.isOrder, hp]
  have e : s.atClose.handFrame f none = s.atClose.recogniseRepeat f :=
    State.handFrame_of_repeat (s := s.atClose) hi hc hp ho ht hk none hd hl
  rw [exec_frameClose_of_receives h, horder, if_pos rfl, e, State.recogniseRepeat_of_pending (s := s.atClose) hc hcl]
  rfl

/-- The own REPEAT received back whole (R35, R166). -/
theorem exec_frameClose_of_ownRepeat {s : State} {a : Attempt} {c : ClosureRecord} {f : Frame} {op : OrderOp}
    (h : s.receivesOwn a f) (hsrc : a.source = .rept) (hp : f.payload = .order op) (hi : s.inStep)
    (hc : s.tc.closure = some c) (hcl : c.closed = false) (ho : c.orig = f.orig) (ht : c.turn = f.turn)
    (hk : c.check = f.check) (hd : (f.turn - s.tc.turn).toNat = 65535)
    (hl : s.tc.lastApplied = some { orig := f.orig, turn := f.turn, check := f.check }) :
    exec .frameClose s =
      .next { s.atClose with
        tc := { s.tc with closure := some { c with repSeen := if c.repSeen < f.repNo then f.repNo else c.repSeen } }
        fe := { s.atClose.fe with
          rept := none
          tx := none
          hold := true
          rollUse := .order
          slotRequest := (s.tc.state == .member || s.tc.state == .leaving) && !c.foreign } } := by
  have horder : f.isOrder = true := by simp [Frame.isOrder, hp]
  have hsent : s.atClose.attemptSent a = s.atClose.onFe fun g => { g.dropPending .rept with tx := none } := by
    rw [State.attemptSent_of_unwithdrawn h.2.2.2.2.2.1, hsrc]
  have e : (s.atClose.attemptSent a).handFrame f (some a) = (s.atClose.attemptSent a).recogniseRepeat f := by
    rw [hsent]
    exact State.handFrame_of_repeat (s := s.atClose.onFe _) hi hc hp ho ht hk (some a) hd hl
  rw [exec_frameClose_of_receivesOwn h, horder, if_pos rfl, e, hsent,
    State.recogniseRepeat_of_pending (s := s.atClose.onFe _) hc hcl]
  rfl

/-- The turn before the next one lies 65535 ahead of it. -/
theorem turn_behind (t : Turn) : (t - 1 - t).toNat = 65535 := by
  have e : t - 1 - t = (65535#16 : Turn) := by bv_omega
  rw [e]
  rfl

/-- Settles O28: each class of frames one turn behind and further. -/
theorem staleIsIgnoredAndRepeatsRecognised : Obligations.StaleIsIgnoredAndRepeatsRecognised := by
  refine ⟨fun s f op h hp hi => ⟨fun hc hd => ?_, fun hc hd hk => ?_, fun c hd hc hcl ho ht hk hl => ?_⟩,
    fun s a f op c h hsrc hp hi ht hc hcl ho hct hk hl => ?_⟩
  · refine exec_frameClose_of_stale h hp hi hc ?_
    rcases hd with ⟨h1, h2⟩ | ⟨h1, h2⟩
    · exact Tc.classify_of_far h1 h2 _ _
    · exact Tc.classify_of_unknown h1 h2
  · exact ⟨_, exec_frameClose_of_lateRepeat h hp hi hc (Tc.classify_of_known hd hk),
      State.lagsTo_setHold (s := s.atClose)
        (State.lagsTo_lagEvent .rollUnreadable h.tx_none rfl rfl rfl (Hp.posts_nil _).symm rfl rfl rfl rfl)⟩
  · exact exec_frameClose_of_repeat h hp hi hc hcl ho ht hk hd hl
  · exact exec_frameClose_of_ownRepeat h hsrc hp hi hc hcl ho hct hk (ht ▸ turn_behind _) hl

/-! ### The hand-over by class and station state (R58, R83, R85, R165) -/

/-- A FOUNDING station that goes back to HAILING, with nothing of its own on the line. -/
theorem State.foundingAbort_eq {s : State} (hs : s.tc.state = .founding) (htx : s.fe.tx = none) :
    s.foundingAbort =
      { s with
        tc := { s.tc with state := .hailing }
        fe := { s.fe with hail := some 0, join := none }
        cu := { s.cu with log := [], logging := false } } := by
  rw [State.foundingAbort_of_founding hs, State.enterHailing_of_tx_none htx]

theorem State.logFrame_of_off {s : State} (h : s.tc.state ≠ .copying ∨ s.cu.logging = false) (f : Frame) (op : OrderOp) :
    s.logFrame f op = s := by
  unfold State.logFrame
  rw [if_pos (h.imp id fun h => by simp [h])]

theorem State.handOrder_of_deaf {s : State}
    (h : s.tc.state = .offline ∨ s.tc.state = .hailing ∨ (s.tc.state = .copying ∧ s.cu.logging = false)) (f : Frame)
    (op : OrderOp) (own : Option Source) : s.handOrder f op own = s := by
  unfold State.handOrder
  rcases h with h | h | ⟨h, hl⟩
  · rw [h]
  · rw [h]
    exact State.logFrame_of_off (.inl (by simp [h])) f op
  · rw [h]
    exact State.logFrame_of_off (.inr hl) f op

theorem State.handOrder_of_founding {s : State} (h : s.tc.state = .founding) (f : Frame) (op : OrderOp) :
    s.handOrder f op none = s.foundingAbort := by
  unfold State.handOrder
  rw [h]
  rfl

theorem State.handCopy_of_founding {s : State} (h : s.tc.state = .founding) (f : Frame) (own : Bool) :
    s.handCopy f own = s.foundingAbort := by
  unfold State.handCopy
  rw [h]

theorem State.handCopy_of_others {s : State} (h1 : s.tc.state ≠ .founding) (h2 : s.tc.state ≠ .copying) (f : Frame) :
    s.handCopy f false = s := by
  unfold State.handCopy
  split
  · contradiction
  · rfl
  · contradiction
  · rfl

/-- Settles O29: the branches of the hand-over. -/
theorem framesAreHandedByClassAndState : Obligations.FramesAreHandedByClassAndState := by
  refine ⟨fun s f h hc => ?_, fun s a f h hc => ?_⟩
  · have hclose := exec_frameClose_of_noClosure h hc
    have htx : s.atClose.fe.tx = none := h.tx_none
    intro abandons
    refine ⟨fun hp => ⟨fun hs => ?_, fun hs => ?_⟩, fun body hp => ⟨fun h1 h2 => ?_, fun hs => ?_⟩, fun op hp => ?_⟩
    · rw [hclose, hp]
      exact congrArg Host.Outcome.next (if_pos hs)
    · rw [hclose, hp]
      exact congrArg Host.Outcome.next (if_neg hs)
    · have hcopy := State.handCopy_of_others (s := s.atClose) h1 h2 f
      rcases hp with hp | hp <;> rw [hclose, hp] <;> exact congrArg Host.Outcome.next hcopy
    · have hcopy : s.atClose.handCopy f false = abandons s.atClose :=
        (State.handCopy_of_founding (s := s.atClose) hs f false).trans (State.foundingAbort_eq (s := s.atClose) hs htx)
      rcases hp with hp | hp <;> rw [hclose, hp] <;> exact congrArg Host.Outcome.next hcopy
    · intro closed
      refine ⟨fun hs => ?_, fun hs => ?_⟩
      · rw [hclose, hp]
        exact congrArg (fun t => Host.Outcome.next t.setHold) (State.handOrder_of_deaf (s := s.atClose) hs f op none)
      · rw [hclose, hp]
        exact congrArg (fun t => Host.Outcome.next t.setHold)
          ((State.handOrder_of_founding (s := s.atClose) hs f op).trans (State.foundingAbort_eq (s := s.atClose) hs htx))
  · have hw : a.withdrawn = false := h.2.2.2.2.2.1
    have hhand (src : Source) (hsrc : a.source = src) :
        (s.atClose.attemptSent a).handFrame f (some a) =
          match f.payload with
          | .order op => (s.atClose.onFe fun g => { g.dropPending src with tx := none }).handOrder f op (some src)
          | .hail => (s.atClose.onFe fun g => { g.dropPending src with tx := none }).handHail f true
          | _ => (s.atClose.onFe fun g => { g.dropPending src with tx := none }).handCopy f (src == .copy) := by
      have hc' : (s.atClose.onFe fun g => { g.dropPending src with tx := none }).noClosure := hc
      unfold State.handFrame
      rw [State.attemptSent_of_unwithdrawn hw, hsrc, State.closeBefore_of_noClosure hc']
      simp only [Option.map_some, Option.isSome_some, Option.any_some, hsrc, hw, Bool.not_false, Bool.and_true] <;> rfl
    refine ⟨fun hsrc hp hs => ?_, fun body hsrc hp hs => ?_⟩
    · rw [exec_frameClose_of_receivesOwn h, hhand _ hsrc]
      simp only [Frame.isOrder, hp, State.handHail, if_true, Bool.false_eq_true, if_false]
      exact congrArg Host.Outcome.next (if_pos hs)
    · have hcopy : (s.atClose.onFe fun g => { g.dropPending .copy with tx := none }).handCopy f (Source.copy == .copy) =
          (s.atClose.onFe fun g => { g.dropPending .copy with tx := none }).armRoll .ownCopy false := by
        unfold State.handCopy
        rw [show (s.atClose.onFe fun g => { g.dropPending .copy with tx := none }).tc.state = .member from hs]
        rfl
      rw [exec_frameClose_of_receivesOwn h, hhand _ hsrc]
      rcases hp with hp | hp
      · simp only [Frame.isOrder, hp, hcopy, Bool.false_eq_true, if_false]
        rfl
      · simp only [Frame.isOrder, hp, hcopy, Bool.false_eq_true, if_false]
        rfl

end Sys2Proof.Machine
end

section
/-! SUPPORT. FRAME_CLOSE of an order frame that is applied: the edit report at a station that did not send it, its grants and
peer notices, and a frame with the own number (O25). -/

namespace Sys2Proof.Machine

/-! ### Grants (R113) -/

/-- Every grant of a waiting ticket's zone moves that ticket to HOLDING with its GRANTED notice, and marks no duplicate. -/
theorem Ru.grantEach_of_waiting (turn : Turn) {zs : List Zone} {r : Ru} (h : r.waitsIn zs) :
    (∀ y : Zone, (Ru.grantEach turn zs r).1.ticket y =
      match r.ticket y with
      | .waiting tag m => if y ∈ zs then .holding tag m else .waiting tag m
      | other => other) ∧
    (Ru.grantEach turn zs r).2.1 =
      (zs.filterMap fun z =>
        match r.ticket z with
        | .waiting tag _ => some (grantedNotice tag z turn)
        | _ => none) ∧
    (Ru.grantEach turn zs r).2.2 = false := by
  induction zs generalizing r with
  | nil =>
    refine ⟨fun y => ?_, rfl, rfl⟩
    rw [Ru.grantEach_nil]
    cases r.ticket y <;> simp
  | cons z zs ih =>
    obtain ⟨hnodup, hwait⟩ := h
    obtain ⟨hz, hnodup⟩ := List.nodup_cons.1 hnodup
    obtain ⟨tag, m, ht⟩ := hwait z (List.mem_cons_self ..)
    have hother : ∀ y : Zone, y ≠ z → (r.setTicket z (.holding tag m)).ticket y = r.ticket y := fun y hy => by
      rw [Ru.ticket_setTicket, if_neg (Ne.symm hy)]
    have hwait' : (r.setTicket z (.holding tag m)).waitsIn zs :=
      ⟨hnodup, fun y hy => by
        rw [hother y (fun e => hz (e ▸ hy))]
        exact hwait y (List.mem_cons_of_mem _ hy)⟩
    obtain ⟨h1, h2, h3⟩ := ih hwait'
    have e : Ru.grantEach turn (z :: zs) r =
        ((Ru.grantEach turn zs (r.setTicket z (.holding tag m))).1,
          grantedNotice tag z turn :: (Ru.grantEach turn zs (r.setTicket z (.holding tag m))).2.1,
          (Ru.grantEach turn zs (r.setTicket z (.holding tag m))).2.2) := by
      simp only [Ru.grantEach, ht]
    rw [e]
    refine ⟨fun y => ?_, ?_, h3⟩
    · by_cases hy : y = z
      · subst hy
        rw [h1, Ru.ticket_setTicket, if_pos rfl, ht]
        simp
      · rw [h1, hother y hy]
        cases r.ticket y <;> simp [hy]
    · rw [h2, List.filterMap_cons, ht]
      refine congrArg _ (List.filterMap_congr fun y hy => ?_)
      rw [hother y (fun e => hz (e ▸ hy))]

/-- The report of an edit by another station at a MEMBER, which removes nothing of the own: its grants alone. -/
theorem Ru.handle_of_grants {self : Station} {turn : Turn} {c : EditCause} {e : EditResult} (r : Ru) (ho : c.own = none)
    (hi : c.orig ≠ some self) (hr : e.removals = []) :
    r.handle self turn c e = Ru.grantEach turn (e.grantedTo self) r := by
  have himp : c.impostor self = false := by simp [EditCause.impostor, hi]
  have hl : c.ownLeave = false := by simp [EditCause.ownLeave, ho]
  simp only [Ru.handle, Ru.ownApplied, ho, himp, hl, hr]
  simp [EditResult.ownGrants, EditResult.grantedTo]

/-- What is kept of two sets of notices told apart by their kind, whichever way they are merged. -/
theorem mergeNotices_filter {p : Notice → Bool} {xs ys : List Notice} (hx : ∀ n ∈ xs, p n = true)
    (hy : ∀ n ∈ ys, p n = false) (fuel n : Nat) :
    (mergeNotices fuel n xs ys).1.filter p = xs ∧ (mergeNotices fuel n xs ys).1.filter (fun n => !p n) = ys := by
  obtain ⟨hperm, hsx, hsy⟩ := mergeNotices_spec fuel n xs ys
  have fx : xs.filter p = xs := List.filter_eq_self.2 hx
  have fy : ys.filter p = [] := List.filter_eq_nil_iff.2 fun n hn => by simp [hy n hn]
  have gx : xs.filter (fun n => !p n) = [] := List.filter_eq_nil_iff.2 fun n hn => by simp [hx n hn]
  have gy : ys.filter (fun n => !p n) = ys := List.filter_eq_self.2 fun n hn => by simp [hy n hn]
  constructor
  · have hsub := hsx.filter p
    rw [fx] at hsub
    refine (hsub.eq_of_length ?_).symm
    rw [(hperm.filter p).length_eq, List.filter_append, fx, fy, List.append_nil]
  · have hsub := hsy.filter (fun n => !p n)
    rw [gy] at hsub
    refine (hsub.eq_of_length ?_).symm
    rw [(hperm.filter _).length_eq, List.filter_append, gx, gy, List.nil_append]

/-! ### The apply of another station's frame (R34, R38, R72) -/

/-- The peer notices of another station's order frame. -/
theorem State.membershipNotices_of_others (s : State) (f : Frame) (op : OrderOp) (foreign : Bool) :
    s.membershipNotices f op false foreign =
      if s.hp.peerNotices then
        match op with
        | .join => [{ kind := .peerJoined, station := some f.orig, turn := some f.turn }]
        | .leave => if foreign then [] else [{ kind := .peerLeft, station := some f.orig, turn := some f.turn }]
        | _ => []
      else [] := by
  unfold State.membershipNotices State.peerNotices
  cases op <;> cases s.hp.peerNotices <;> cases foreign <;> rfl

/-- The state in which an apply's edit report comes to the Request Unit: table and records changed. -/
def State.edited (f : Frame) (op : OrderOp) (e : EditResult) (own : Bool) (s : State) : State :=
  (s.setTable e).onTc fun t => t.opened (f.record op e own)

/-- The state in which the edit report comes, field by field (R34). -/
theorem State.edited_eq (f : Frame) (op : OrderOp) (e : EditResult) (own : Bool) (s : State) :
    s.edited f op e own =
      { s with
        ztu := e.ztu
        tc :=
          { state := s.tc.state
            turn := s.tc.turn + 1
            lastApplied := some { orig := f.orig, turn := f.turn, check := f.check }
            roster := e.roster
            closure := some (f.closureOf op e own)
            waitTimer := s.tc.waitTimer } } := by
  unfold State.edited Frame.record Frame.closureOf
  generalize f.check = check
  rfl

/-- The apply of a frame whose edit is `e`, with the outcome `x` of its report (R34). -/
theorem State.applyFrame_eq {s : State} {f : Frame} {op : OrderOp} {own : Option Source} {e : EditResult}
    {x : State × List Notice × Bool} (he : s.ztu.apply s.tc.roster f.orig s.self op = e)
    (hx : (s.edited f op e own.isSome).ruReport f.turn { orig := some f.orig, op := some op, own := own } e = x) :
    s.applyFrame f op own =
      if x.2.2 then
        ((x.1.postEither x.2.1 (s.membershipNotices f op own.isSome e.foreign)).membershipChange op own.isSome).duplicateLag
      else
        ((x.1.postEither x.2.1 (s.membershipNotices f op own.isSome e.foreign)).membershipChange op own.isSome).armRoll
          .order
          (((x.1.postEither x.2.1 (s.membershipNotices f op own.isSome e.foreign)).membershipChange op
            own.isSome).tc.state.confirms && !e.foreign) := by
  subst he hx
  rfl

/-- The report of an edit by another station at a MEMBER, in the state it leaves. -/
theorem State.ruReport_of_member {s : State} {turn : Turn} {c : EditCause} {e : EditResult} (hs : s.tc.state = .member)
    (ho : c.own = none) (hi : c.orig ≠ some s.self) (hr : e.removals = []) :
    s.ruReport turn c e =
      ((s.onRu fun _ => (Ru.grantEach turn (e.grantedTo s.self) s.ru).1).syncWait s.waitCond,
        (Ru.grantEach turn (e.grantedTo s.self) s.ru).2) := by
  rw [State.ruReport, if_pos hs, Ru.handle_of_grants s.ru ho hi hr]

/-- Outside MEMBER an edit report changes nothing of the Request Unit. -/
theorem State.ruReport_of_not_member {s : State} (hs : s.tc.state ≠ .member) (turn : Turn) (c : EditCause)
    (e : EditResult) : s.ruReport turn c e = (s, [], false) := by
  rw [State.ruReport, if_neg hs]

/-- An edit that grants the own station nothing. -/
theorem EditResult.grantedTo_eq_nil {e : EditResult} {self : Station} (h : ∀ g ∈ e.grants, g.entry.station ≠ self) :
    e.grantedTo self = [] := by
  rw [EditResult.grantedTo, List.map_eq_nil_iff, List.filter_eq_nil_iff]
  simpa using h

/-- The wait-probe timer after an event that changes no ticket: it stops where its condition fails (R49). -/
def State.timerKept (s : State) : Option Nat :=
  if s.tc.state = .member ∧ s.waitCond = false then none else s.tc.waitTimer

/-- The report of an edit by another station that grants the own station nothing: the wait-probe timer alone follows. -/
theorem State.ruReport_of_others {s : State} {turn : Turn} {c : EditCause} {e : EditResult} (ho : c.own = none)
    (hi : c.orig ≠ some s.self) (hr : e.removals = []) (hg : ∀ g ∈ e.grants, g.entry.station ≠ s.self) :
    s.ruReport turn c e = (s.onTc fun t => { t with waitTimer := s.timerKept }, [], false) := by
  unfold State.timerKept
  by_cases hs : s.tc.state = .member
  · rw [State.ruReport_of_member hs ho hi hr, EditResult.grantedTo_eq_nil hg, Ru.grantEach_nil]
    have e : (s.onRu fun _ => s.ru).syncWait s.waitCond =
        s.onTc fun t => { t with
          waitTimer := if s.waitCond then (if s.waitCond then s.tc.waitTimer else some 0) else none } := rfl
    rw [e]
    cases s.waitCond <;> simp [hs]
  · rw [State.ruReport_of_not_member hs, if_neg (fun h => hs h.1)]
    rfl

/-- The handling of another station's order frame that is applied: the class leads to the apply (R33). -/
theorem State.orderInStep_of_apply {s : State} {f : Frame} {op : OrderOp} {own : Option Source} (ht : f.turn = s.tc.turn)
    (hi : isImpostorFrame s.self f op own = false) : s.orderInStep f op own = s.applyFrame f op own := by
  rw [State.orderInStep, Tc.classify_of_turn ht, hi]
  rfl

theorem isImpostorFrame_of_ne {self : Station} {f : Frame} (h : f.orig ≠ self) (op : OrderOp) (own : Option Source) :
    isImpostorFrame self f op own = false := by
  simp [isImpostorFrame, h]

/-- The apply of another station's frame that grants the own station nothing. -/
theorem State.applyFrame_of_others {s : State} {f : Frame} {op : OrderOp} {e : EditResult}
    (he : s.ztu.apply s.tc.roster f.orig s.self op = e) (ho : f.orig ≠ s.self)
    (hg : ∀ g ∈ e.grants, g.entry.station ≠ s.self) :
    s.applyFrame f op none =
      { s with
        ztu := e.ztu
        tc :=
          { state := s.tc.state
            turn := s.tc.turn + 1
            lastApplied := some { orig := f.orig, turn := f.turn, check := f.check }
            roster := e.roster
            closure := some (f.closureOf op e false)
            waitTimer := s.timerKept }
        fe := { s.fe with rollUse := .order, slotRequest := (s.tc.state == .member || s.tc.state == .leaving) && !e.foreign }
        hp := s.hp.posts (s.membershipNotices f op false e.foreign) } := by
  have hr : e.removals = [] := he ▸ Ztu.apply_removals_of_ne ho s.ztu s.tc.roster op
  have hx := State.ruReport_of_others (s := s.edited f op e false) (turn := f.turn)
    (c := { orig := some f.orig, op := some op, own := none }) rfl (fun h => ho (Option.some.inj h)) hr hg
  have hw : (s.edited f op e false).timerKept = s.timerKept := by
    rw [State.edited_eq]
    rfl
  refine (State.applyFrame_eq (own := none) he hx).trans ?_
  rw [if_neg (by simp), State.postEither_nil_left, ← StationState.confirms_eq, hw, State.edited_eq]
  rfl

/-! ### An edit that grants the own station's waiting entries (R44, R113, R118) -/

theorem State.waitCond_congr {s t : State} (hs : t.tc.state = s.tc.state) (hl : t.hp.waitLimit = s.hp.waitLimit)
    (hr : t.ru = s.ru) : t.waitCond = s.waitCond := by
  simp only [State.waitCond, hs, hl, hr]

/-- The grants of an edit report at a MEMBER, posted with the peer notices of the same event. -/
theorem State.report_grants {u : State} {turn : Turn} {c : EditCause} {e : EditResult} {peers : List Notice}
    (hs : u.tc.state = .member) (ho : c.own = none) (hi : c.orig ≠ some u.self) (hr : e.removals = [])
    (hw : u.ru.waitsIn (e.grantedTo u.self)) (hp : ∀ n ∈ peers, n.kind ≠ .granted) :
    ∃ t : State, (u.ruReport turn c e).1.postEither (u.ruReport turn c e).2.1 peers = t ∧
      (u.ruReport turn c e).2.2 = false ∧ u.grantsIn (e.grantedTo u.self) turn peers t ∧
      t = { u with
        tc := { u.tc with
          waitTimer := if t.waitCond then (if u.waitCond then u.tc.waitTimer else some 0) else none }
        ru := t.ru
        hp := t.hp
        freeUsed := t.freeUsed } := by
  obtain ⟨hticket, hnotices, hmark⟩ := Ru.grantEach_of_waiting turn hw
  have hrest := Ru.grantEach_rest turn (e.grantedTo u.self) u.ru
  have hx := State.ruReport_of_member (turn := turn) hs ho hi hr
  have hgranted : ∀ n ∈ (Ru.grantEach turn (e.grantedTo u.self) u.ru).2.1, (n.kind == .granted) = true := fun n hn => by
    rw [hnotices, List.mem_filterMap] at hn
    obtain ⟨z, -, hz⟩ := hn
    split at hz
    · cases hz
      rfl
    · cases hz
  have hpeers : ∀ n ∈ peers, (n.kind == .granted) = false := fun n hn => by simpa using hp n hn
  generalize hg : Ru.grantEach turn (e.grantedTo u.self) u.ru = g at *
  obtain ⟨r, ns, mark⟩ := g
  rw [hx]
  refine ⟨_, rfl, hmark, ⟨?_, ?_, ?_, ?_, ?_, ?_⟩, ?_⟩
  · rw [State.postEither_eq]
    exact hticket
  · rw [State.postEither_eq]
    exact (congrArg Ru.queue hrest :)
  · rw [State.postEither_eq]
    exact (congrArg Ru.touchFlag hrest :)
  · rw [State.postEither_eq]
    exact (congrArg Ru.touchOnLine hrest :)
  · rw [State.postEither_eq]
    exact (congrArg Ru.touchTries hrest :)
  · obtain ⟨hf, hn⟩ := mergeNotices_filter hgranted hpeers (ns.length + peers.length)
      ((u.onRu fun _ => r).syncWait u.waitCond).freeUsed
    refine ⟨_, by rw [State.postEither_eq]; rfl, ?_, hn⟩
    rw [hf, hnotices]
    rfl
  · have hcond : (((u.onRu fun _ => r).syncWait u.waitCond).postEither ns peers).waitCond = (u.onRu fun _ => r).waitCond := by
      refine State.waitCond_congr ?_ ?_ ?_
      · rw [State.postEither_eq]
        rfl
      · rw [State.postEither_eq]
        exact Hp.posts_waitLimit _ _
      · rw [State.postEither_eq]
        rfl
    rw [hcond, State.postEither_eq]
    rfl

/-- No peer notice is a GRANTED. -/
theorem State.membershipNotices_not_granted (s : State) (f : Frame) (op : OrderOp) (foreign : Bool) :
    ∀ n ∈ s.membershipNotices f op false foreign, n.kind ≠ .granted := by
  rw [State.membershipNotices_of_others]
  cases op <;> cases s.hp.peerNotices <;> cases foreign <;> simp

/-- The apply of another station's frame at a MEMBER that it grants waiting entries. -/
theorem State.applyFrame_of_grants {s : State} {f : Frame} {op : OrderOp} {e : EditResult}
    (he : s.ztu.apply s.tc.roster f.orig s.self op = e) (ho : f.orig ≠ s.self) (hs : s.tc.state = .member)
    (hw : s.ru.waitsIn (e.grantedTo s.self)) :
    ∃ t, s.applyFrame f op none =
        { t with fe := { s.fe with rollUse := .order, slotRequest := !e.foreign } } ∧
      s.grantsIn (e.grantedTo s.self) f.turn (s.membershipNotices f op false e.foreign) t ∧
      t = { s with
        ztu := e.ztu
        tc :=
          { state := .member
            turn := s.tc.turn + 1
            lastApplied := some { orig := f.orig, turn := f.turn, check := f.check }
            roster := e.roster
            closure := some (f.closureOf op e false)
            waitTimer := if t.waitCond then (if s.waitCond then s.tc.waitTimer else some 0) else none }
        ru := t.ru
        hp := t.hp
        freeUsed := t.freeUsed } := by
  have hr : e.removals = [] := he ▸ Ztu.apply_removals_of_ne ho s.ztu s.tc.roster op
  obtain ⟨t, ht, hmark, hgrants, heq⟩ := State.report_grants (u := s.edited f op e false) (turn := f.turn)
    (c := { orig := some f.orig, op := some op, own := none }) (peers := s.membershipNotices f op false e.foreign)
    hs rfl (fun h => ho (Option.some.inj h)) hr hw (s.membershipNotices_not_granted f op e.foreign)
  rw [State.edited_eq] at heq hgrants
  have hstate : t.tc.state = .member := by
    rw [heq]
    exact hs
  have hfe : t.fe = s.fe := by rw [heq]
  refine ⟨t, ?_, hgrants, ?_⟩
  · refine (State.applyFrame_eq (own := none) he rfl).trans ?_
    rw [if_neg (by simp [hmark])]
    refine (congrArg (fun u : State => (u.membershipChange op false).armRoll .order
      ((u.membershipChange op false).tc.state.confirms && !e.foreign)) ht).trans ?_
    change t.armRoll .order (t.tc.state.confirms && !e.foreign) = _
    rw [hstate, ← hfe]
    rfl
  · rw [← hs]
    exact heq

/-! ### A frame with the own number that the station did not send (R68, R117) -/

/-- The duplicate treatment in a state with the frames, the Request Unit, the Copy Unit and the notices of `s`. -/
theorem State.lagsTo_duplicateLag {s u : State} {turn : Turn} (htx : s.fe.tx = none) (hfe : u.fe = s.fe)
    (hru : u.ru = s.ru) (hcu : u.cu = s.cu) (hhp : u.hp = s.hp) (hturn : u.tc.turn = turn) (hlif : u.lif = s.lif)
    (hpins : u.pins = s.pins) (hpending : u.pending = s.pending) :
    s.lagsTo [{ kind := .duplicateSuspect, station := some s.self }] turn .selfEvicted u.duplicateLag := by
  refine State.lagsTo_lagEvent .selfEvicted htx hfe hru hcu ?_ hturn hlif hpins hpending
  simp only [State.post, State.onHp, State.self, hhp]
  rfl

/-- The report of a foreign frame with the own number that grants nothing: a duplicate mark, and no ticket changes. -/
theorem Ru.handle_of_impostor {self : Station} {turn : Turn} {c : EditCause} {e : EditResult} (r : Ru)
    (ho : c.own = none) (hi : c.orig = some self) (hg : ∀ g ∈ e.grants, g.entry.station ≠ self) :
    r.handle self turn c e = (r, [], true) := by
  have himp : c.impostor self = true := by simp [EditCause.impostor, hi, ho]
  have hl : c.ownLeave = false := by simp [EditCause.ownLeave, ho]
  have hn : e.ownGrants self = [] := EditResult.grantedTo_eq_nil hg
  simp [Ru.handle, Ru.ownApplied, ho, himp, hl, hn]

/-- The apply of a CLAIM, RELEASE or TOUCH with the own number that the station did not send. -/
theorem State.applyFrame_of_impostor {s : State} {f : Frame} {op : OrderOp} (ho : f.orig = s.self)
    (hs : s.tc.state = .member) (h1 : op ≠ .join) (h2 : op ≠ .leave)
    (hg : ∀ g ∈ (s.ztu.apply s.tc.roster f.orig s.self op).grants, g.entry.station ≠ s.self) :
    ∃ u : State, s.applyFrame f op none = u.duplicateLag ∧ u.fe = s.fe ∧ u.ru = s.ru ∧ u.cu = s.cu ∧ u.hp = s.hp ∧
      u.tc.turn = s.tc.turn + 1 ∧ u.lif = s.lif ∧ u.pins = s.pins ∧ u.pending = s.pending := by
  generalize he : s.ztu.apply s.tc.roster f.orig s.self op = e at hg
  have hn : s.membershipNotices f op false e.foreign = [] := by
    cases op with
    | join => exact absurd rfl h1
    | leave => exact absurd rfl h2
    | _ => rfl
  have hx : (s.edited f op e false).ruReport f.turn { orig := some f.orig, op := some op, own := none } e =
      (((s.edited f op e false).onRu fun _ => s.ru).syncWait (s.edited f op e false).waitCond, [], true) := by
    have hh : s.ru.handle s.self f.turn { orig := some f.orig, op := some op, own := none } e = (s.ru, [], true) :=
      Ru.handle_of_impostor _ rfl (congrArg some ho) hg
    rw [State.ruReport, if_pos (by rw [State.edited_eq]; exact hs)]
    exact congrArg (fun x : Ru × List Notice × Bool =>
      (((s.edited f op e false).onRu fun _ => x.1).syncWait (s.edited f op e false).waitCond, x.2.1, x.2.2)) hh
  refine ⟨_, (State.applyFrame_eq (own := none) he hx).trans (if_pos rfl), ?_⟩
  have hpost : (((s.edited f op e false).onRu fun _ => s.ru).syncWait (s.edited f op e false).waitCond).postEither []
      (s.membershipNotices f op false e.foreign) =
      ((s.edited f op e false).onRu fun _ => s.ru).syncWait (s.edited f op e false).waitCond := by
    rw [hn, State.postEither_nil_right]
    rfl
  change (State.postEither _ _ _).fe = _ ∧ (State.postEither _ _ _).ru = _ ∧ (State.postEither _ _ _).cu = _ ∧
    (State.postEither _ _ _).hp = _ ∧ (State.postEither _ _ _).tc.turn = _ ∧ (State.postEither _ _ _).lif = _ ∧
    (State.postEither _ _ _).pins = _ ∧ (State.postEither _ _ _).pending = _
  simp only [Option.isSome_none, hpost]
  exact ⟨rfl, rfl, rfl, rfl, rfl, rfl, rfl, rfl⟩

/-- Settles O25: the apply of another station's frame without and with grants to the own station, and the two ways of a frame
with the own number. -/
theorem orderFrameIsApplied : Obligations.OrderFrameIsApplied := by
  refine ⟨fun s f op h hp hi hc ht ho => ?_, fun s f op h hp hc ht ho => ?_⟩
  · intro e peers
    have hclose := exec_frameClose_of_order h hp hi hc
    have happly : s.atClose.orderInStep f op none = s.atClose.applyFrame f op none :=
      State.orderInStep_of_apply (s := s.atClose) ht (isImpostorFrame_of_ne ho op none)
    have hpeers : s.atClose.membershipNotices f op false e.foreign = peers :=
      State.membershipNotices_of_others s.atClose f op e.foreign
    rw [hclose, happly]
    refine ⟨fun hg => ?_, fun hs hw => ?_⟩
    · rw [State.applyFrame_of_others (s := s.atClose) (e := e) rfl ho hg, hpeers]
      rfl
    · obtain ⟨t, ha, hgrants, heq⟩ := State.applyFrame_of_grants (s := s.atClose) (e := e) rfl ho hs hw
      have hfe : t.fe = s.atClose.fe := by rw [heq]
      rw [hpeers] at hgrants
      refine ⟨_, rfl, ?_⟩
      rw [ha]
      refine ⟨?_, ?_, hgrants, rfl, ?_, ?_, ?_, ?_⟩
      · exact congrArg State.ztu heq
      · exact congrArg State.tc heq
      · exact (congrArg State.cu heq :)
      · exact (congrArg State.lif heq :)
      · exact (congrArg State.pins heq :)
      · exact (congrArg State.pending heq :)
  · intro closed suspect
    refine ⟨fun hi hop => ?_, fun hs h1 h2 hg => ?_⟩
    · have himp : isImpostorFrame s.self f op none = true := by
        rcases hop with rfl | rfl <;> simp [isImpostorFrame, ho]
      have hdup : s.atClose.orderInStep f op none = s.atClose.duplicateLag := by
        rw [State.orderInStep, Tc.classify_of_turn (t := s.atClose.tc) ht]
        exact if_pos himp
      refine ⟨_, exec_frameClose_of_order h hp hi hc, ?_⟩
      rw [hdup]
      exact State.lagsTo_setHold (s := s.atClose)
        (State.lagsTo_duplicateLag h.tx_none rfl rfl rfl rfl rfl rfl rfl rfl)
    · have hi : s.inStep := .inr (.inl hs)
      have himp : isImpostorFrame s.self f op none = false := by
        cases op with
        | join => exact absurd rfl h1
        | leave => exact absurd rfl h2
        | _ => simp [isImpostorFrame]
      have happly : s.atClose.orderInStep f op none = s.atClose.applyFrame f op none :=
        State.orderInStep_of_apply (s := s.atClose) ht himp
      obtain ⟨u, hu, hfe, hru, hcu, hhp, hturn, hlif, hpins, hpending⟩ :=
        State.applyFrame_of_impostor (s := s.atClose) ho hs h1 h2 (by rw [ho]; exact hg)
      refine ⟨_, exec_frameClose_of_order h hp hi hc, ?_⟩
      rw [happly, hu]
      exact State.lagsTo_setHold (s := s.atClose)
        (State.lagsTo_duplicateLag h.tx_none hfe hru hcu hhp hturn hlif hpins hpending)

end Sys2Proof.Machine
end

section
/-! SUPPORT. FRAME_TAKE: what the selector takes and the frame it builds (O36). -/

namespace Sys2Proof.Machine

/-! ### The selector (R168, R169) -/

theorem exec_frameTake_of_none {s : State} (h : s.pins.resetLow = false) (hs : s.selected = none) :
    exec .frameTake s = .next s := by
  change execFrameTake s = _
  rw [execFrameTake, live_of_high h, hs]

theorem exec_frameTake_of_some {s : State} {src : Source} (h : s.pins.resetLow = false) (hs : s.selected = some src) :
    exec .frameTake s = .next (s.take src) := by
  change execFrameTake s = _
  rw [execFrameTake, live_of_high h, hs]

/-- No closure pending, in the model's words. -/
theorem State.closurePending_iff (s : State) : s.closurePending = true ↔ ¬ s.noClosure := by
  unfold State.closurePending State.noClosure
  cases s.tc.closure with
  | none => simp
  | some c => cases h : c.closed <;> simp [h]

theorem State.mayStart_iff (s : State) : s.mayStart = true ↔ s.noClosure ∧ s.fe.hold = false := by
  unfold State.mayStart
  rw [Bool.and_eq_true, Bool.not_eq_true', Bool.not_eq_true', ← Bool.not_eq_true, State.closurePending_iff, not_not]

/-- Nothing is selected on a line that is not IDLE, or with LTX driven (R144, R168). -/
theorem State.selected_of_shut {s : State} (h : s.lif.line ≠ .idle ∨ s.lif.drive ≠ none) : s.selected = none := by
  have hc : s.lif.line ≠ .idle ∨ s.fe.tx.isSome = true ∨ s.lif.drive.isSome = true := by
    rcases h with h | h
    · exact .inl h
    · exact .inr (.inr (Option.isSome_iff_ne_none.2 h))
  unfold State.selected
  rw [if_pos]
  simpa [or_assoc] using hc

/-- The selector at a start opportunity. -/
theorem State.selected_of_idle {s : State} (hl : s.lif.line = .idle) (htx : s.fe.tx = none) (hd : s.lif.drive = none) :
    s.selected =
      if (s.tc.state == .member || s.tc.state == .leaving) && s.fe.rept.isSome then some .rept
      else if !s.mayStart then none
      else
        match s.tc.state with
        | .founding => if s.fe.join.isSome then some .join else none
        | .joining => if s.fe.join.isSome then some .join else none
        | .hailing => if s.fe.hail.isSome then some .hail else none
        | .member =>
          if s.ruOffers then (if s.ru.touchFlag then some .touch else some .request)
          else if s.fe.copy.isSome then some .copy
          else none
        | _ => none := by
  unfold State.selected
  rw [if_neg (by simp [hl, htx, hd])] <;> rfl

/-- A REPEAT goes before everything, whatever the hold and the closure (R168). -/
theorem State.selected_of_rept {s : State} (hl : s.lif.line = .idle) (htx : s.fe.tx = none) (hd : s.lif.drive = none)
    (hs : s.tc.state = .member ∨ s.tc.state = .leaving) (hr : s.fe.rept.isSome = true) : s.selected = some .rept := by
  rw [State.selected_of_idle hl htx hd, if_pos]
  rcases hs with h | h <;> simp [h, hr]

/-- With no REPEAT nothing starts under the hold or a pending closure (R168). -/
theorem State.selected_of_held {s : State} (hl : s.lif.line = .idle) (htx : s.fe.tx = none) (hd : s.lif.drive = none)
    (hr : s.fe.rept = none) (hm : s.fe.hold = true ∨ ¬ s.noClosure) : s.selected = none := by
  have hms : s.mayStart = false := by
    rw [← Bool.not_eq_true, State.mayStart_iff]
    rintro ⟨h1, h2⟩
    rcases hm with h | h
    · rw [h2] at h
      cases h
    · exact h h1
  rw [State.selected_of_idle hl htx hd, if_neg (by simp [hr]), hms]
  rfl

/-- Free to start, and with no REPEAT to send, the selector goes by the station state (R169). -/
theorem State.selected_of_free {s : State} (hl : s.lif.line = .idle) (htx : s.fe.tx = none) (hd : s.lif.drive = none)
    (hold : s.fe.hold = false) (hc : s.noClosure)
    (hr : s.fe.rept = none ∨ (s.tc.state ≠ .member ∧ s.tc.state ≠ .leaving)) :
    s.selected =
      match s.tc.state with
      | .founding => if s.fe.join.isSome then some .join else none
      | .joining => if s.fe.join.isSome then some .join else none
      | .hailing => if s.fe.hail.isSome then some .hail else none
      | .member =>
        if s.ruOffers then (if s.ru.touchFlag then some .touch else some .request)
        else if s.fe.copy.isSome then some .copy
        else none
      | _ => none := by
  have hrept : ((s.tc.state == .member || s.tc.state == .leaving) && s.fe.rept.isSome) = false := by
    rcases hr with h | ⟨h1, h2⟩
    · simp [h]
    · simp [h1, h2]
  rw [State.selected_of_idle hl htx hd, hrept, (s.mayStart_iff).2 ⟨hc, hold⟩] <;> rfl

/-- The Request Unit offers a frame in MEMBER with nothing of its own on the line and something to send (R105). -/
theorem State.ruOffers_eq {s : State} (hs : s.tc.state = .member) (hc : s.noClosure) (ht : s.ru.touchOnLine = false)
    (hq : ∀ q ∈ s.ru.queue, q.onLine = false) : s.ruOffers = (!s.ru.queue.isEmpty || s.ru.touchFlag) := by
  have hline : s.ru.requestOnLine = false := by
    rw [Ru.requestOnLine, List.any_eq_false]
    exact fun q h => by simp [hq q h]
  unfold State.noClosure at hc
  unfold State.ruOffers
  rw [hline, ht, hs]
  cases h : s.tc.closure with
  | none => simp
  | some c =>
    rw [h] at hc
    simp [show c.closed = true from hc]

/-! ### The frame that is built (R144, R170) -/

/-- The take from an IDLE line: the frame goes into transmission, and its OPEN is driven. -/
theorem State.take_of_build {s t : State} {src : Source} {f : Frame} (hl : s.lif.line = .idle)
    (ht : s.takeAtSource src = t) (hlif : t.lif = s.lif) (hf : t.buildFrame src = some f) :
    s.take src =
      { t with
        lif := { s.lif with line := .busy .pulse, drive := some { symbol := .openSymbol, left := 200 } }
        fe := { t.fe with
          yieldTimer := none
          tx := some { source := src, frame := f, bits := f.bits, driven := 0, faulted := false, missed := false,
                       withdrawn := false } } } := by
  have hleave : t.leaveIdle = (t.setLine (.busy .pulse)).onFe fun g => { g with yieldTimer := none } :=
    if_pos (by rw [hlif]; exact hl)
  unfold State.take
  simp only [ht, hf, hleave, ← hlif]
  rfl

/-- Settles O36: the source selected in each station state, and its frame. -/
theorem frameTakeServesTheSources : Obligations.FrameTakeServesTheSources := by
  intro s h htx
  have nothing (hn : s.selected = none) : exec .frameTake s = .next s := exec_frameTake_of_none h hn
  refine ⟨fun hl => nothing (State.selected_of_shut hl), fun hl hd => ?_⟩
  intro taken own
  have takes (src : Source) (t : State) (f : Frame) (hsel : s.selected = some src) (ht : s.takeAtSource src = t)
      (hlif : t.lif = s.lif) (hfe : t.fe = s.fe) (hf : t.buildFrame src = some f) :
      exec .frameTake s = .next (taken t src f) := by
    rw [exec_frameTake_of_some h hsel, State.take_of_build hl ht hlif hf, hfe]
  refine ⟨fun p hs hp => ?_, fun hr hm => nothing (State.selected_of_held hl htx hd hr hm), fun hold hc => ?_⟩
  · exact takes .rept s p.frame (State.selected_of_rept hl htx hd hs (by simp [hp])) rfl rfl rfl
      (by simp [State.buildFrame, hp])
  · have free := State.selected_of_free hl htx hd hold hc
    refine ⟨fun hs => ?_, fun hs hn => ?_, fun hs hn => ?_, fun hs hn => ?_, fun hs hn => ?_, fun hs hr hto hq => ?_⟩
    · refine nothing ?_
      rcases hs with hs | hs | ⟨hs, hr⟩
      · rw [free (.inr (by simp [hs])), hs]
      · rw [free (.inr (by simp [hs])), hs]
      · rw [free (.inl hr), hs]
    · refine nothing ?_
      rw [free (.inr (by simp [hs])), hs]
      simp [hn]
    · refine nothing ?_
      rcases hs with hs | hs <;>
      · rw [free (.inr (by simp [hs])), hs]
        simp [hn]
    · refine takes .hail s _ ?_ rfl rfl rfl rfl
      rw [free (.inr (by simp [hs])), hs]
      simp [Option.isSome_iff_ne_none, hn]
    · refine takes .join s _ ?_ rfl rfl rfl rfl
      rcases hs with hs | hs <;>
      · rw [free (.inr (by simp [hs])), hs]
        simp [Option.isSome_iff_ne_none, hn]
    · have hsel : s.selected =
          if s.ruOffers then (if s.ru.touchFlag then some .touch else some .request)
          else if s.fe.copy.isSome then some .copy
          else none := by
        rw [free (.inl hr), hs]
      rw [State.ruOffers_eq hs hc hto hq] at hsel
      refine ⟨fun hf => ?_, fun q behind hf hqueue => ?_, fun hf hqueue => ?_⟩
      · exact takes .touch _ _ (by rw [hsel]; simp [hf]) rfl rfl rfl rfl
      · have ht : s.takeAtSource .request =
            { s with ru := { s.ru with queue := { q with onLine := true } :: behind } } := by
          change (s.onRu Ru.takeHead) = _
          simp only [State.onRu, Ru.takeHead, hqueue]
        have hop : q.op.order = (match q.op with
            | .claim z m => .claim z m
            | .release z => .release z
            | .touch => .touch
            | .leave => .leave) := by
          cases q.op <;> rfl
        have htake := takes .request _ (own q.op.order) (by rw [hsel]; simp [hf, hqueue]) ht rfl rfl rfl
        rw [hop] at htake
        exact htake
      · have hcopy : s.selected = if s.fe.copy.isSome then some .copy else none := by
          rw [hsel]
          simp [hf, hqueue]
        refine ⟨fun hn => nothing (by rw [hcopy, hn]; rfl), fun hn hp h0 => ?_, fun img hn himg => ⟨fun hp h0 => ?_, fun recs hp hrecs => ?_⟩⟩
        · intro recs set body
          have hsome : s.selected = some .copy := by
            rw [hcopy, if_pos (Option.isSome_iff_ne_none.2 hn)]
          have ht : s.takeAtSource .copy = s.snapshot := if_pos ⟨hp, h0⟩
          have hbuild : s.snapshot.buildFrame .copy =
              some { payload := .copyHead body, repNo := 0, orig := s.self, turn := s.tc.turn } := by
            unfold State.buildFrame State.copyFrame State.snapshot State.onCu
            simp only [Option.map_some, hp, h0]
            rfl
          exact takes .copy s.snapshot _ hsome ht rfl rfl hbuild
        all_goals
          have hsome : s.selected = some .copy := by
            rw [hcopy, if_pos (Option.isSome_iff_ne_none.2 hn)]
        · refine takes .copy s _ hsome (if_neg fun e => h0 e.2) rfl rfl ?_
          change (s.cu.image.map _) = _
          simp only [himg, Option.map_some, hp]
        · refine takes .copy s _ hsome (if_neg fun e => by rw [hp] at e; cases e.1) rfl rfl ?_
          change (s.cu.image.map _) = _
          simp only [himg, Option.map_some, hp, hrecs, Option.getD_some]
          rfl

end Sys2Proof.Machine
end

section
/-! SUPPORT. What the closure leaves alone: it reads and changes neither the Line Interface nor the frame in reception, the roll,
the hold and the yield timer, so it can be taken before or after a change of these. -/

namespace Sys2Proof.Machine

/-! ### Changes of the Frame Engine that the upper blocks do not see -/

/-- A change of the Frame Engine beside its pending frames: it can be made before or after a change of these. -/
structure Fe.Outer (F : Fe → Fe) : Prop where
  withdraw : ∀ src f, F (f.withdraw src) = (F f).withdraw src
  rept : ∀ f x, F { f with rept := x } = { F f with rept := x }
  hail : ∀ f x, F { f with hail := x } = { F f with hail := x }
  join : ∀ f x, F { f with join := x } = { F f with join := x }
  copy : ∀ f x, F { f with copy := x } = { F f with copy := x }

/-- The pins and the Line Interface replaced and the Frame Engine changed by `F`. -/
def State.outer (p : Pins) (l : Lif) (F : Fe → Fe) (s : State) : State := { s with pins := p, lif := l, fe := F s.fe }

variable {p : Pins} {l : Lif} {F : Fe → Fe}

theorem State.outer_onCu (f : Cu → Cu) (s : State) : (s.outer p l F).onCu f = (s.onCu f).outer p l F := rfl
theorem State.outer_post (n : Notice) (s : State) : (s.outer p l F).post n = (s.post n).outer p l F := rfl

theorem State.outer_postAll (ns : List Notice) (s : State) : (s.outer p l F).postAll ns = (s.postAll ns).outer p l F := by
  rw [State.postAll_eq, State.postAll_eq]
  rfl

theorem State.outer_postEither (xs ys : List Notice) (s : State) :
    (s.outer p l F).postEither xs ys = (s.postEither xs ys).outer p l F := by
  rw [State.postEither_eq, State.postEither_eq]
  rfl

theorem State.outer_withdraw (hF : Fe.Outer F) (src : Source) (s : State) :
    (s.outer p l F).onFe (Fe.withdraw src) = (s.onFe (Fe.withdraw src)).outer p l F := by
  simp only [State.outer, State.onFe, hF.withdraw]

theorem State.outer_enterHailing (hF : Fe.Outer F) (s : State) :
    (s.outer p l F).enterHailing = s.enterHailing.outer p l F := by
  have h : F { s.fe.withdraw .join with hail := some 0 } = { (F s.fe).withdraw .join with hail := some 0 } := by
    rw [hF.hail, hF.withdraw]
  simp only [State.enterHailing, State.setState, State.outer, State.onFe, State.onTc, State.onCu, h]

theorem State.outer_afterLag (hF : Fe.Outer F) (s : State) : (s.outer p l F).afterLag = s.afterLag.outer p l F := by
  unfold State.afterLag
  rw [apply_ite (State.outer p l F), ← State.outer_enterHailing hF]
  rfl

theorem State.outer_cancelRequests (hF : Fe.Outer F) (why : Reason) (s : State) :
    (s.outer p l F).cancelRequests why = (s.cancelRequests why).outer p l F := by
  simp only [State.cancelRequests_eq, State.outer, hF.withdraw]

theorem State.outer_loseTickets (turn : Turn) (s : State) :
    (s.outer p l F).loseTickets turn = (s.loseTickets turn).outer p l F := by
  rw [State.loseTickets_eq, State.loseTickets_eq]
  rfl

theorem State.outer_closeSource (hF : Fe.Outer F) (s : State) :
    (s.outer p l F).closeSource = s.closeSource.outer p l F := by
  simp only [State.closeSource_eq, State.outer, hF.withdraw]

/-- A lag event leaves the outer parts alone. -/
theorem State.outer_lagEvent (hF : Fe.Outer F) (r : LagReason) (s : State) :
    (s.outer p l F).lagEvent r = (s.lagEvent r).outer p l F := by
  have h1 : ((s.outer p l F).stopWait.onFe fun f => (f.withdraw .rept).withdraw .join) =
      (s.stopWait.onFe fun f => (f.withdraw .rept).withdraw .join).outer p l F := by
    simp only [State.outer, State.stopWait, State.onTc, State.onFe, hF.withdraw]
  have hd (t : State) : (t.outer p l F).discardTable = t.discardTable.outer p l F := rfl
  have ht : (s.outer p l F).tc.turn = s.tc.turn := rfl
  simp only [State.lagEvent, h1, ht, State.outer_post, hd, State.outer_loseTickets, State.outer_cancelRequests hF,
    State.outer_closeSource hF, State.outer_onCu, State.outer_afterLag hF]

theorem State.outer_duplicateLag (hF : Fe.Outer F) (s : State) :
    (s.outer p l F).duplicateLag = s.duplicateLag.outer p l F := by
  have h : ((s.outer p l F).post (duplicateNotice (s.outer p l F).self)) = (s.post (duplicateNotice s.self)).outer p l F := rfl
  rw [State.duplicateLag, h, State.outer_lagEvent hF]
  rfl

theorem State.outer_ruReport (turn : Turn) (c : EditCause) (e : EditResult) (s : State) :
    (s.outer p l F).ruReport turn c e = ((s.ruReport turn c e).1.outer p l F, (s.ruReport turn c e).2) := by
  by_cases h : s.tc.state = .member
  · rw [State.ruReport, State.ruReport, if_pos h, if_pos (show (s.outer p l F).tc.state = .member from h)]
    rfl
  · rw [State.ruReport_of_not_member h, State.ruReport_of_not_member (s := s.outer p l F) h]

theorem State.outer_evict (e : StationSet) (turn : Turn) (s : State) :
    (s.outer p l F).evict e turn = ((s.evict e turn).1.outer p l F, (s.evict e turn).2) := by
  have hs : (s.outer p l F).self = s.self := rfl
  have hp (ns : List Notice) : (s.outer p l F).peerNotices ns = s.peerNotices ns := rfl
  have ht (r : EditResult) : (s.outer p l F).setTable r = (s.setTable r).outer p l F := rfl
  unfold State.evict
  rw [show (s.outer p l F).ztu = s.ztu from id rfl, show (s.outer p l F).tc = s.tc from id rfl, hs]
  generalize s.ztu.remove s.tc.roster e s.self = r
  simp only [ht, hp, State.outer_ruReport, State.outer_postEither]

theorem State.outer_closureEffects (hF : Fe.Outer F) (c : ClosureRecord) (s : State) :
    (s.outer p l F).closureEffects c = (s.closureEffects c).outer p l F := by
  have h1 (t : State) : (t.outer p l F).leaveGroup c.turn = (t.leaveGroup c.turn).outer p l F := rfl
  have h2 (t : State) : (t.outer p l F).restartWait = t.restartWait.outer p l F := rfl
  have h3 : ((s.outer p l F).onTc fun t => { t with closure := some { c with closed := true } }).onFe (Fe.withdraw .rept) =
      ((s.onTc fun t => { t with closure := some { c with closed := true } }).onFe (Fe.withdraw .rept)).outer p l F :=
    State.outer_withdraw hF .rept (s.onTc fun t => { t with closure := some { c with closed := true } })
  unfold State.closureEffects
  simp only [h3]
  generalize (s.onTc fun t => { t with closure := some { c with closed := true } }).onFe (Fe.withdraw .rept) = u
  by_cases hl : u.tc.state = .leaving ∧ c.own = true
  · rw [if_pos hl, if_pos (show (u.outer p l F).tc.state = .leaving ∧ c.own = true from hl), h1, h2]
  · rw [if_neg hl, if_neg (show ¬ ((u.outer p l F).tc.state = .leaving ∧ c.own = true) from hl), h2]

theorem State.outer_closeRecord (hF : Fe.Outer F) (c : ClosureRecord) (s : State) :
    (s.outer p l F).closeRecord c = (s.closeRecord c).outer p l F := by
  have hs : (s.outer p l F).self = s.self := rfl
  unfold State.closeRecord
  rw [hs]
  cases c.ending s.self with
  | lag r => exact State.outer_lagEvent hF r s
  | evict e =>
    have hx : (if e = 0 then (s.outer p l F, false) else (s.outer p l F).evict e c.turn) =
        (((if e = 0 then (s, false) else s.evict e c.turn).1).outer p l F,
          (if e = 0 then (s, false) else s.evict e c.turn).2) := by
      split
      · rfl
      · exact State.outer_evict e c.turn s
    simp only [hx, State.outer_closureEffects hF, State.outer_duplicateLag hF]
    rw [← apply_ite (State.outer p l F)]

/-- The closure is taken the same before and after a change of the outer parts. -/
theorem State.outer_takeClosure (hF : Fe.Outer F) (s : State) :
    (s.outer p l F).takeClosure = s.takeClosure.outer p l F := by
  have hc : (s.outer p l F).tc.closure = s.tc.closure := rfl
  unfold State.takeClosure
  rw [hc]
  cases s.tc.closure with
  | none => rfl
  | some c =>
    simp only [State.outer_closeRecord hF]
    rw [← apply_ite (State.outer p l F)]

/-! ### What stays over a closure -/

/-- The parts of the Frame Engine beside pending frames and the frame in transmission, taken from `g`. -/
def Fe.reframed (g f : Fe) : Fe :=
  { f with rx := g.rx, rollUse := g.rollUse, slots := g.slots, slotRequest := g.slotRequest, hold := g.hold,
           yieldTimer := g.yieldTimer }

theorem Fe.outer_reframed (g : Fe) : Fe.Outer (Fe.reframed g) where
  withdraw := fun src f => by cases src <;> rfl
  rept := fun _ _ => rfl
  hail := fun _ _ => rfl
  join := fun _ _ => rfl
  copy := fun _ _ => rfl

/-- No frame in transmission. -/
def Fe.silent (f : Fe) : Fe := { f with tx := none }

theorem Fe.outer_silent : Fe.Outer Fe.silent where
  withdraw := fun src f => by cases src <;> rfl
  rept := fun _ _ => rfl
  hail := fun _ _ => rfl
  join := fun _ _ => rfl
  copy := fun _ _ => rfl

/-- A closure keeps the Line Interface and, of the Frame Engine, reception, roll, hold and yield timer. -/
theorem State.takeClosure_reframed (s : State) :
    s.takeClosure = { s.takeClosure with pins := s.pins, lif := s.lif, fe := s.fe.reframed s.takeClosure.fe } :=
  State.outer_takeClosure (p := s.pins) (l := s.lif) (Fe.outer_reframed s.fe) s

/-- With nothing in transmission before a closure, nothing is after it. -/
theorem State.takeClosure_tx_none {s : State} (h : s.fe.tx = none) : s.takeClosure.fe.tx = none := by
  have hs : s.outer s.pins s.lif Fe.silent = s := by
    simp only [State.outer, Fe.silent, ← h]
  have e := State.outer_takeClosure (p := s.pins) (l := s.lif) Fe.outer_silent s
  rw [hs] at e
  rw [e]
  rfl

end Sys2Proof.Machine
end

section
/-! SUPPORT. The REST_END by each use of the roll (R151, R177): which stations a roll holds, the hand-over, and the IDLE
that follows. -/

namespace Sys2Proof.Machine

/-! ### The stations of a roll -/

theorem StationSet.has_del_eq_true {s : StationSet} {j k : Station} :
    StationSet.has (StationSet.del s j) k = true ↔ StationSet.has s k = true ∧ k ≠ j := by
  rw [StationSet.has_del, Bool.and_eq_true, Bool.not_eq_true', decide_eq_false_iff_not, ne_comm]

theorem StationSet.has_del_eq_false {s : StationSet} {j k : Station} :
    StationSet.has (StationSet.del s j) k = false ↔ (k ≠ j → StationSet.has s k = false) := by
  simp only [StationSet.has_del, Bool.and_eq_false_iff, Bool.not_eq_false', decide_eq_true_eq]
  rw [eq_comm (a := j)]
  tauto

/-- The roll is readable and holds the station. -/
def Roll.holds (roll : Roll) (k : Station) : Prop :=
  match roll with
  | .unreadable => False
  | .readable set => StationSet.has set k = true

theorem Roll.holds_rollOf (slots : List SlotReading) (k : Station) :
    (rollOf slots).holds k ↔ SlotReading.damaged ∉ slots ∧ slots[k.val]? = some .asserted := by
  by_cases h : SlotReading.damaged ∈ slots
  · rw [rollOf_of_damaged h]
    simp [Roll.holds, h]
  · obtain ⟨set, hr, hset⟩ := rollOf_of_readable h
    rw [hr]
    simp [Roll.holds, hset, h]

/-- A roll covers a set when it is readable and holds every station of it. -/
theorem Roll.covers_rollOf (slots : List SlotReading) (set : StationSet) :
    (rollOf slots).covers set = true ↔
      SlotReading.damaged ∉ slots ∧ ∀ k : Station, StationSet.has set k = true →
        SlotReading.damaged ∉ slots ∧ slots[k.val]? = some .asserted := by
  by_cases h : SlotReading.damaged ∈ slots
  · rw [rollOf_of_damaged h]
    simp [Roll.covers, h]
  · obtain ⟨roll, hr, hroll⟩ := rollOf_of_readable h
    rw [hr]
    simp [Roll.covers, StationSet.within_iff, hroll, h]

theorem Roll.has_keep (roll : Roll) (set : StationSet) (k : Station) :
    StationSet.has (roll.keep set) k = true ↔ StationSet.has set k = true ∧ roll.holds k := by
  cases roll with
  | unreadable => simp [Roll.keep, Roll.holds]
  | readable r => simp [Roll.keep, Roll.holds]

/-- What a roll keeps of a set that it covers is the whole set. -/
theorem Roll.keep_of_covers {roll : Roll} {set : StationSet} (h : roll.covers set = true) : roll.keep set = set := by
  cases roll with
  | unreadable => simp [Roll.covers] at h
  | readable r =>
    refine StationSet.ext_has fun k => ?_
    have hk := (StationSet.within_iff set r).1 h k
    simp only [Roll.keep, StationSet.has_and]
    cases hs : StationSet.has set k <;> simp_all

/-! ### The hand-over -/

/-- The state at REST_END, before the roll is handed over. -/
def State.restEnded (s : State) : State :=
  { s with
    lif := s.lif.later (240 - (s.lif.slotAt + s.lif.sinceReport)).toNat
    fe := { s.fe with rollUse := .none, slots := [], slotRequest := false } }

/-- The line IDLE with the yield timer as the hold asks. -/
def State.idled (s : State) : State :=
  { s with
    lif := { s.lif with line := .idle }
    fe := { s.fe with yieldTimer := if s.fe.hold then some 0 else none } }

theorem State.lineIdle_of_unfaulted {s : State} (h : ∀ a, s.fe.tx = some a → a.faulted = false) : s.lineIdle = s.idled := by
  have hf : s.endFaulted = s := by
    unfold State.endFaulted
    cases ha : s.fe.tx with
    | none => rfl
    | some a => exact if_neg (by simp [h a ha])
  unfold State.lineIdle
  rw [hf]
  rfl

theorem exec_restEnd {s : State} (hr : s.pins.resetLow = false) (hl : s.lif.line = .busy .rest) (hlow : s.lif.low = false) :
    exec .restEnd s = .next ((s.onLif Lif.restOver).handRoll (rollOf s.fe.slots)).lineIdle := by
  change execRestEnd s = _
  rw [execRestEnd, live_of_high hr, if_pos ⟨hl, hlow⟩]

/-- REST_END, when the hand-over of the roll gives a state with no faulted attempt. -/
theorem exec_restEnd_of {s u : State} (hr : s.pins.resetLow = false) (hl : s.lif.line = .busy .rest)
    (hlow : s.lif.low = false) (hu : (s.onLif Lif.restOver).handRoll (rollOf s.fe.slots) = u)
    (hf : ∀ a, u.fe.tx = some a → a.faulted = false) : exec .restEnd s = .next u.idled := by
  rw [exec_restEnd hr hl hlow, hu, State.lineIdle_of_unfaulted hf]

theorem State.restOver_endRoll (s : State) : (s.onLif Lif.restOver).onFe Fe.endRoll = s.restEnded := by
  unfold State.restEnded
  rw [← Lif.restOver_eq_later]
  rfl

section
variable {s : State} {roll : Roll}

theorem State.handRoll_of_order (h : s.fe.rollUse = .order) :
    (s.onLif Lif.restOver).handRoll roll = s.restEnded.orderRoll roll := by
  rw [← State.restOver_endRoll]
  simp only [State.handRoll, State.onLif_fe, h]

theorem State.handRoll_of_log {n : Fin 4} (h : s.fe.rollUse = .log n) :
    (s.onLif Lif.restOver).handRoll roll = s.restEnded.onCu (Cu.logRoll n roll) := by
  rw [← State.restOver_endRoll]
  simp only [State.handRoll, State.onLif_fe, h]

theorem State.handRoll_of_ownHail (h : s.fe.rollUse = .ownHail) :
    (s.onLif Lif.restOver).handRoll roll = s.restEnded.hailAnswer roll := by
  rw [← State.restOver_endRoll]
  simp only [State.handRoll, State.onLif_fe, h]

theorem State.handRoll_of_hail {hailer : Station} (h : s.fe.rollUse = .hail hailer) :
    (s.onLif Lif.restOver).handRoll roll = s.restEnded.selectSource hailer roll := by
  rw [← State.restOver_endRoll]
  simp only [State.handRoll, State.onLif_fe, h]

theorem State.handRoll_of_ownCopy (h : s.fe.rollUse = .ownCopy) :
    (s.onLif Lif.restOver).handRoll roll = s.restEnded.copyRoll roll := by
  rw [← State.restOver_endRoll]
  simp only [State.handRoll, State.onLif_fe, h]

end

/-! ### The own HAIL -/

theorem State.hailAnswer_of_unreadable {s : State} (h : s.tc.state = .hailing) :
    s.hailAnswer .unreadable = s.enterHailing := by
  simp [State.hailAnswer, h]

theorem State.hailAnswer_of_readable {s : State} {set : StationSet} (h : s.tc.state = .hailing) :
    s.hailAnswer (.readable set) =
      (match StationSet.lowest (StationSet.del set s.self) with
        | none => s.enterFounding
        | some k => s.enterCopying k) := by
  unfold State.hailAnswer
  exact if_neg (by simp [h])

/-- Settles O33: the three outcomes of R56. -/
theorem hailRollDecides : Obligations.HailRollDecides := by
  intro s hr hl hlow huse hst htx t
  have hex {u : State} (hu : s.restEnded.hailAnswer (rollOf s.fe.slots) = u) (hutx : u.fe.tx = none) :
      exec .restEnd s = .next u.idled :=
    exec_restEnd_of hr hl hlow ((State.handRoll_of_ownHail huse).trans hu) (by simp [hutx])
  have hst' : s.restEnded.tc.state = .hailing := hst
  have htx' : s.restEnded.fe.tx = none := htx
  refine ⟨fun hd => ?_, fun hd hnone => ?_, fun k hd hk hheld hlowest => ?_⟩
  · rw [rollOf_of_damaged hd, State.hailAnswer_of_unreadable hst', State.enterHailing_of_tx_none htx'] at hex
    have htc : t.tc = { s.tc with state := .hailing } := by rw [← hst]
    rw [htc]
    exact hex rfl htx
  · obtain ⟨set, hroll, hset⟩ := rollOf_of_readable hd
    have hnobody : StationSet.lowest (StationSet.del set s.restEnded.self) = none := by
      rw [StationSet.lowest_eq_none]
      exact fun j => StationSet.has_del_eq_false.2 fun hj => Bool.eq_false_iff.2 fun h => hnone j hj ((hset j).1 h)
    rw [hroll, State.hailAnswer_of_readable hst', hnobody] at hex
    exact hex rfl htx
  · obtain ⟨set, hroll, hset⟩ := rollOf_of_readable hd
    have hmin : StationSet.lowest (StationSet.del set s.restEnded.self) = some k := by
      rw [StationSet.lowest_eq_some, StationSet.has_del_eq_true]
      exact ⟨⟨(hset k).2 hheld, hk⟩, fun j hj =>
        StationSet.has_del_eq_false.2 fun hne => Bool.eq_false_iff.2 fun h => hlowest j hj hne ((hset j).1 h)⟩
    rw [hroll, State.hailAnswer_of_readable hst', hmin] at hex
    exact hex rfl htx

/-! ### The frame under closure -/

section
variable {s : State} {c : ClosureRecord} {roll : Roll}

/-- The closure record with the roll read. -/
def State.rollRead (c : ClosureRecord) (roll : Roll) (s : State) : State :=
  { s with tc := { s.tc with closure := some { c with lastRoll := some roll } } }

/-- A roll read under a pending closure (R40, R41, R43). -/
theorem State.orderRoll_of_pending (hc : s.tc.closure = some c) (hcl : c.closed = false) :
    s.orderRoll roll =
      if c.repSeen = 3 then (s.rollRead c roll).takeClosure
      else if c.own && !roll.covers c.expected then
        (s.rollRead c roll).onFe fun f => { f with rept := some { frame := c.repeatFrame, tries := 0 } }
      else s.rollRead c roll := by
  unfold State.orderRoll
  rw [hc]
  exact if_neg (by simp [hcl])

theorem State.orderRoll_of_last (hc : s.tc.closure = some c) (hcl : c.closed = false) (h3 : c.repSeen = 3) :
    s.orderRoll roll = (s.rollRead c roll).takeClosure := by
  rw [State.orderRoll_of_pending hc hcl, if_pos h3]

theorem State.orderRoll_of_whole (hc : s.tc.closure = some c) (hcl : c.closed = false) (h3 : c.repSeen ≠ 3)
    (hw : c.own = false ∨ roll.covers c.expected = true) : s.orderRoll roll = s.rollRead c roll := by
  have hn : ¬ (c.own && !roll.covers c.expected) = true := by
    rcases hw with h | h <;> simp [h]
  rw [State.orderRoll_of_pending hc hcl, if_neg h3, if_neg hn]

theorem nextRep_of_ne {r : Fin 4} (h : r ≠ 3) : nextRep r = r + 1 := if_neg h

theorem State.orderRoll_of_partial (hc : s.tc.closure = some c) (hcl : c.closed = false) (h3 : c.repSeen ≠ 3)
    (ho : c.own = true) (hw : ¬ roll.covers c.expected = true) :
    s.orderRoll roll = (s.rollRead c roll).onFe fun f =>
      { f with
        rept := some
          { frame := { payload := .order c.op, repNo := c.repSeen + 1, orig := c.orig, turn := c.turn }, tries := 0 } } := by
  have hn : (c.own && !roll.covers c.expected) = true := by simp [ho, hw]
  rw [State.orderRoll_of_pending hc hcl, if_neg h3, if_pos hn, ClosureRecord.repeatFrame, nextRep_of_ne h3]

end

/-! ### The answer to another station's HAIL -/

/-- A stream begins for the stations that wait. -/
theorem State.startStream_of_idle {s : State} (hp : s.cu.phase = .idle) (hs : s.tc.state = .member) :
    s.startStream =
      if s.cu.waiting = 0 then s
      else
        { s with
          cu := { s.cu with streamNo := s.cu.streamNo + 1, phase := .head, repNo := 0 }
          fe := { s.fe with copy := some 0 } } := by
  unfold State.startStream
  by_cases hw : s.cu.waiting = 0
  · rw [if_neg (by simp [hw]), if_pos hw]
  · rw [if_pos ⟨hp, hs, hw⟩, if_neg hw]
    rfl

theorem State.startStream_of_busy {s : State} (hp : s.cu.phase ≠ .idle) : s.startStream = s :=
  if_neg fun h => hp h.1

/-- The own station is the source chosen by the roll of a HAIL: the lowest in it other than the hailer (R55). -/
def State.isChosen (h : Station) (roll : Roll) (s : State) : Prop :=
  s.self ≠ h ∧ roll.holds s.self ∧ ∀ j : Station, j < s.self → j ≠ h → ¬ roll.holds j

theorem State.selectSource_of_chosen {s : State} {h : Station} {roll : Roll} (hs : s.tc.state = .member)
    (hc : s.isChosen h roll) : s.selectSource h roll = s.takeHailer h := by
  obtain ⟨hne, hself, hlow⟩ := hc
  cases roll with
  | unreadable => exact hself.elim
  | readable set =>
    refine if_pos ⟨hs, StationSet.lowest_eq_some.2 ⟨StationSet.has_del_eq_true.2 ⟨hself, hne⟩, fun j hj => ?_⟩⟩
    exact StationSet.has_del_eq_false.2 fun hjh => Bool.eq_false_iff.2 (hlow j hj hjh)

theorem State.selectSource_of_not {s : State} {h : Station} {roll : Roll} (hc : ¬ s.isChosen h roll) :
    s.selectSource h roll = s := by
  cases roll with
  | unreadable => rfl
  | readable set =>
    refine if_neg fun ⟨_, hmin⟩ => hc ?_
    obtain ⟨hself, hlow⟩ := StationSet.lowest_eq_some.1 hmin
    obtain ⟨hin, hne⟩ := StationSet.has_del_eq_true.1 hself
    exact ⟨hne, hin, fun j hj hjh hheld => by
      have := StationSet.has_del_eq_false.1 (hlow j hj) hjh
      simp only [Roll.holds] at hheld
      simp [this] at hheld⟩

theorem StationSet.add_ne_zero (s : StationSet) (k : Station) : StationSet.add s k ≠ 0 := fun h => by
  have hk : StationSet.has (StationSet.add s k) k = false := by rw [h]; exact StationSet.has_zero k
  simp at hk

/-- Nothing is left of a set without one of its members exactly when it holds that member alone. -/
theorem StationSet.emptied_iff (s : StationSet) (h : Station) :
    (StationSet.has s h && (StationSet.del s h == 0)) = true ↔ s = StationSet.one h := by
  rw [Bool.and_eq_true, beq_iff_eq, StationSet.eq_zero_iff]
  constructor
  · rintro ⟨hh, hz⟩
    refine StationSet.ext_has fun k => ?_
    have hk := StationSet.has_del_eq_false.1 (hz k)
    rw [StationSet.has_one]
    by_cases e : h = k
    · simp [← e, hh]
    · simp [e, hk (Ne.symm e)]
  · rintro rfl
    refine ⟨by simp, fun k => StationSet.has_del_eq_false.2 fun e => by simp [Ne.symm e]⟩

section
variable {s : State} {h : Station}

/-- The Copy Unit with the hailer taken into its waiting set. -/
def Cu.hailed (h : Station) (c : Cu) : Cu :=
  { c with waiting := StationSet.add c.waiting h, streamSet := c.streamSet &&& ~~~(StationSet.one h) }

theorem State.takeHailer_of_others (hne : s.cu.streamSet ≠ StationSet.one h) :
    s.takeHailer h = (s.onCu (Cu.hailed h)).startStream := by
  exact congrArg State.startStream (if_neg fun e => hne ((StationSet.emptied_iff _ _).1 e))

theorem State.takeHailer_of_alone (he : s.cu.streamSet = StationSet.one h) :
    s.takeHailer h = (s.onCu (Cu.hailed h)).abandonStream.startStream := by
  exact congrArg State.startStream (if_pos ((StationSet.emptied_iff _ _).2 he))

end

theorem State.abandonStream_of_tx_none {s : State} (h : s.fe.tx = none) :
    s.abandonStream =
      { s with
        cu := { s.cu with phase := .idle, streamSet := 0, partIndex := 0, partCount := 0, repNo := 0, image := none }
        fe := { s.fe with copy := none } } := by
  simp only [State.abandonStream, State.onFe, State.onCu, Fe.withdraw_of_tx_none h]
  rfl

end Sys2Proof.Machine
end

section
/-! SUPPORT. The closure by the lapse of the yield interval and by the CLOSE of another frame (R42 to R48). -/

namespace Sys2Proof.Machine

/-! ### The effects of a closure (R45) -/

section
variable {s : State} {c : ClosureRecord}

/-- The record closed and the pending REPEAT withdrawn (R45 steps 1 and 2). -/
def State.recordClosed (c : ClosureRecord) (s : State) : State :=
  (s.onTc fun t => { t with closure := some { c with closed := true } }).onFe (Fe.withdraw .rept)

theorem State.closureEffects_of_stay (h : ¬ (s.tc.state = .leaving ∧ c.own = true)) :
    s.closureEffects c = (s.recordClosed c).restartWait :=
  congrArg State.restartWait (if_neg h)

theorem State.closureEffects_of_leave (h : s.tc.state = .leaving) (ho : c.own = true) :
    s.closureEffects c = ((s.recordClosed c).leaveGroup c.turn).restartWait :=
  congrArg State.restartWait (if_pos ⟨h, ho⟩)

theorem State.closureEffects_noClosure (s : State) (c : ClosureRecord) : (s.closureEffects c).noClosure := by
  by_cases h : s.tc.state = .leaving ∧ c.own = true
  · rw [State.closureEffects_of_leave h.1 h.2]
    exact trivial
  · rw [State.closureEffects_of_stay h]
    exact rfl

theorem State.closureEffects_log (h : s.cu.log = []) : (s.closureEffects c).cu.log = [] := by
  by_cases hl : s.tc.state = .leaving ∧ c.own = true
  · rw [State.closureEffects_of_leave hl.1 hl.2]
    rfl
  · rw [State.closureEffects_of_stay hl]
    exact h

end

/-! ### What every closure ends with -/

theorem State.lagEvent_noClosure (r : LagReason) (s : State) : (s.lagEvent r).noClosure := by
  obtain ⟨htc, -⟩ := s.lagEvent_spec r
  unfold State.noClosure
  rw [htc]
  trivial

theorem State.lagEvent_log (r : LagReason) (s : State) : (s.lagEvent r).cu.log = [] := by
  obtain ⟨-, -, hcu, -⟩ := s.lagEvent_spec r
  rw [hcu]
  rfl

theorem State.ruReport_cu (turn : Turn) (c : EditCause) (e : EditResult) (s : State) :
    (s.ruReport turn c e).1.cu = s.cu := by
  unfold State.ruReport
  split <;> rfl

theorem State.evict_cu (e : StationSet) (turn : Turn) (s : State) : (s.evict e turn).1.cu = s.cu := by
  unfold State.evict
  generalize s.ztu.remove s.tc.roster e s.self = r
  simp only [State.postEither_eq, State.ruReport_cu]
  rfl

/-- A property that a lag event ends with, and the effects of a closure too, is one that every closure ends with. -/
theorem State.closeRecord_induction {P : State → Prop} {s : State} {c : ClosureRecord}
    (hlag : ∀ r (u : State), P (u.lagEvent r)) (heff : ∀ u : State, u.cu = s.cu → P (u.closureEffects c)) :
    P (s.closeRecord c) := by
  unfold State.closeRecord
  cases c.ending s.self with
  | lag r => exact hlag r s
  | evict e =>
    have hx : (if e = 0 then (s, false) else s.evict e c.turn).1.cu = s.cu := by
      split
      · rfl
      · exact State.evict_cu e c.turn s
    dsimp only
    generalize (if e = 0 then (s, false) else s.evict e c.turn) = x at hx
    cases x.2 with
    | true => exact hlag _ _
    | false => exact heff _ hx

theorem State.takeClosure_noClosure (s : State) : s.takeClosure.noClosure := by
  rcases s.takeClosure_cases with ⟨hn, h⟩ | ⟨c, -, -, ⟨r, -, h⟩ | ⟨e, -, h⟩⟩
  · rwa [h]
  · rw [h]
    exact State.lagEvent_noClosure r s
  · rw [h]
    exact State.closeRecord_induction State.lagEvent_noClosure fun u _ => State.closureEffects_noClosure u c

theorem State.takeClosure_log {s : State} (hl : s.cu.log = []) : s.takeClosure.cu.log = [] := by
  rcases s.takeClosure_cases with ⟨-, h⟩ | ⟨c, -, -, ⟨r, -, h⟩ | ⟨e, -, h⟩⟩
  · rwa [h]
  · rw [h]
    exact State.lagEvent_log r s
  · rw [h]
    exact State.closeRecord_induction (P := fun u => u.cu.log = []) State.lagEvent_log fun u hu =>
      State.closureEffects_log (by rw [hu, hl])

/-! ### The lapse of the yield interval (R167) -/

/-- The hold cleared and the yield timer stopped. -/
def Fe.lapsed (f : Fe) : Fe := { f with hold := false, yieldTimer := none }

theorem Fe.outer_lapsed : Fe.Outer Fe.lapsed where
  withdraw := fun src f => by cases src <;> rfl
  rept := fun _ _ => rfl
  hail := fun _ _ => rfl
  join := fun _ _ => rfl
  copy := fun _ _ => rfl

theorem exec_yieldLapse {s : State} (hr : s.pins.resetLow = false) (hl : s.lif.line = .idle) (hh : s.fe.hold = true)
    (hy : s.fe.yieldTimer ≠ none) : exec .yieldLapse s = .next s.yieldLapsed := by
  change execYieldLapse s = _
  rw [execYieldLapse, live_of_high hr, if_pos ⟨hl, hh, Option.isSome_iff_ne_none.2 hy⟩]

/-- The lapse takes the closure of the state with hold and timer cleared, and closes the newest log entry. -/
theorem State.yieldLapsed_eq (s : State) :
    s.yieldLapsed = ({ s with fe := s.fe.lapsed } : State).takeClosure.onCu Cu.closeNewest := by
  have h : ({ s with fe := s.fe.lapsed } : State).takeClosure = s.takeClosure.outer s.takeClosure.pins s.takeClosure.lif
      Fe.lapsed := by
    have hp : s.takeClosure.pins = s.pins := by rw [State.takeClosure_reframed]
    have hl : s.takeClosure.lif = s.lif := by rw [State.takeClosure_reframed]
    rw [hp, hl]
    exact State.outer_takeClosure Fe.outer_lapsed s
  rw [h]
  rfl

theorem State.closeNewest_of_empty {s : State} (h : s.cu.log = []) : s.onCu Cu.closeNewest = s := by
  have hc : s.cu.closeNewest = s.cu := by
    unfold Cu.closeNewest
    rw [h, onNewest, ← h]
  unfold State.onCu
  rw [hc]

theorem onNewest_append (g : LogEntry → LogEntry) (older : List LogEntry) (e : LogEntry) :
    onNewest g (older ++ [e]) = older ++ [g e] := by
  induction older with
  | nil => rfl
  | cons x xs ih =>
    cases xs with
    | nil => rfl
    | cons y ys => exact congrArg (x :: ·) ih

/-- With no log entry, the lapse is the closure alone. -/
theorem State.yieldLapsed_of_empty {s : State} (h : s.cu.log = []) :
    s.yieldLapsed = ({ s with fe := s.fe.lapsed } : State).takeClosure := by
  rw [State.yieldLapsed_eq]
  exact State.closeNewest_of_empty (State.takeClosure_log (s := { s with fe := s.fe.lapsed }) h)

theorem State.takeClosure_of_pending {s : State} {c : ClosureRecord} (hc : s.tc.closure = some c) (hp : c.closed = false) :
    s.takeClosure = s.closeRecord c := by
  unfold State.takeClosure
  rw [hc]
  exact if_neg (by simp [hp])

/-! ### The CLOSE of another accepted frame (R42) -/

theorem State.closeBefore_of_other {s : State} {f : Frame} {c : ClosureRecord} (hc : s.tc.closure = some c)
    (hn : ∀ op, f.payload = .order op → c.orig ≠ f.orig ∨ c.turn ≠ f.turn ∨ c.check ≠ f.check) :
    s.closeBefore f = s.takeClosure := by
  have hr : (f.isOrder && c.isRepeat f) = false := by
    unfold Frame.isOrder
    cases hp : f.payload with
    | order op => rcases hn op hp with h | h | h <;> simp [ClosureRecord.isRepeat, h]
    | _ => rfl
  unfold State.closeBefore
  rw [hc]
  exact if_neg (by simp [hr])

theorem State.handFrame_of_closeBefore {s t : State} {f : Frame} (h : s.closeBefore f = t) (hn : t.noClosure)
    (own : Option Attempt) : s.handFrame f own = t.handFrame f own := by
  unfold State.handFrame
  rw [h, State.closeBefore_of_noClosure hn]

/-- Nothing in reception and no roll, as at the CLOSE. -/
def Fe.closing (f : Fe) : Fe := { f with rx := none, rollUse := .none, slots := [], slotRequest := false }

theorem Fe.outer_closing : Fe.Outer Fe.closing where
  withdraw := fun src f => by cases src <;> rfl
  rept := fun _ _ => rfl
  hail := fun _ _ => rfl
  join := fun _ _ => rfl
  copy := fun _ _ => rfl

/-- The closure can be taken before the CLOSE or after it. -/
theorem State.atClose_takeClosure (s : State) : s.atClose.takeClosure = s.takeClosure.atClose := by
  have hp : s.takeClosure.pins = s.pins := by rw [State.takeClosure_reframed]
  have hl : s.takeClosure.lif = s.lif := by rw [State.takeClosure_reframed]
  have h := State.outer_takeClosure (p := s.pins) (l := s.atClose.lif) Fe.outer_closing s
  refine h.trans ?_
  unfold State.outer State.atClose
  rw [hl, ← hp]
  rfl

theorem State.takeClosure_receives {s : State} {f : Frame} (h : s.receives f) : s.takeClosure.receives f := by
  have e := s.takeClosure_reframed
  have htx := State.takeClosure_tx_none h.tx_none
  obtain ⟨h1, h2, h3, -, h5⟩ := h
  refine ⟨?_, ?_, ?_, htx, ?_⟩
  · rw [e]
    exact h1
  · rw [e]
    exact h2
  · rw [e]
    exact h3
  · rw [e]
    exact h5

/-- The CLOSE of another accepted frame is the CLOSE in the state with the closure taken. -/
theorem exec_frameClose_of_pending {s : State} {f : Frame} {c : ClosureRecord} (h : s.receives f)
    (hc : s.tc.closure = some c)
    (hn : ∀ op, f.payload = .order op → c.orig ≠ f.orig ∨ c.turn ≠ f.turn ∨ c.check ≠ f.check) :
    exec .frameClose s = exec .frameClose s.takeClosure := by
  have hclose : s.atClose.closeBefore f = s.takeClosure.atClose :=
    (State.closeBefore_of_other (s := s.atClose) hc hn).trans s.atClose_takeClosure
  have hnone : s.takeClosure.atClose.noClosure := s.takeClosure_noClosure
  rw [exec_frameClose_of_receives h, exec_frameClose_of_receives (State.takeClosure_receives h),
    State.handFrame_of_closeBefore hclose hnone]

/-- The hold set and the yield timer at zero. -/
def Fe.held (f : Fe) : Fe := { f with hold := true, yieldTimer := some 0 }

theorem Fe.outer_lapsed_held : Fe.Outer (Fe.lapsed ∘ Fe.held) where
  withdraw := fun src f => by cases src <;> rfl
  rept := fun _ _ => rfl
  hail := fun _ _ => rfl
  join := fun _ _ => rfl
  copy := fun _ _ => rfl

/-- A lapse under another line and another hold is the closure of the state itself with these parts changed. -/
theorem State.yieldLapsed_of_held {s : State} (hl : s.cu.log = []) (l : Lif) :
    ({ s with lif := l, fe := s.fe.held } : State).yieldLapsed =
      { s.takeClosure with lif := l, fe := (s.takeClosure.fe.held).lapsed } := by
  rw [State.yieldLapsed_of_empty (s := { s with lif := l, fe := s.fe.held }) hl]
  have hp : s.takeClosure.pins = s.pins := by rw [State.takeClosure_reframed]
  refine (State.outer_takeClosure (p := s.pins) (l := l) Fe.outer_lapsed_held s).trans ?_
  unfold State.outer
  rw [← hp]
  rfl

/-- Hold and yield timer put back, the closure alone is left. -/
theorem State.takeClosure_restored (s : State) (l : Lif) :
    ({ ({ s.takeClosure with lif := l, fe := (s.takeClosure.fe.held).lapsed } : State) with
        lif := s.lif
        fe := { (s.takeClosure.fe.held).lapsed with hold := s.fe.hold, yieldTimer := s.fe.yieldTimer } } : State) =
      s.takeClosure := by
  rw [s.takeClosure_reframed]
  rfl

/-- After a lapse under another hold no closure is pending, and hold and timer put back leave the closure alone. -/
theorem State.lapse_restored {s u : State} {l : Lif} (hl : s.cu.log = [])
    (hu : ({ s with lif := l, fe := s.fe.held } : State).yieldLapsed = u) :
    u.noClosure ∧
      ({ u with lif := s.lif, fe := { u.fe with hold := s.fe.hold, yieldTimer := s.fe.yieldTimer } } : State) =
        s.takeClosure := by
  rw [State.yieldLapsed_of_held hl] at hu
  subst hu
  exact ⟨s.takeClosure_noClosure, s.takeClosure_restored l⟩

end Sys2Proof.Machine
end

section
/-! SUPPORT. The eviction of a closure and what each closure leaves (R44, R45). -/

namespace Sys2Proof.Machine

/-! ### The eviction (R44) -/

/-- The PEER-EVICTED notices of an eviction, in ascending order (R44, R72). -/
def State.evictedNotices (gone : StationSet) (turn : Turn) (s : State) : List Notice :=
  s.peerNotices ((StationSet.members gone).map fun k => peerNotice .peerEvicted k turn)

theorem State.evictedNotices_eq (gone : StationSet) (turn : Turn) (s : State) :
    s.evictedNotices gone turn =
      if s.hp.peerNotices then
        (StationSet.members gone).map fun k => { kind := .peerEvicted, station := some k, turn := some turn }
      else [] := rfl

theorem State.evictedNotices_not_granted (gone : StationSet) (turn : Turn) (s : State) :
    ∀ n ∈ s.evictedNotices gone turn, n.kind ≠ .granted := by
  intro n hn
  rw [State.evictedNotices_eq] at hn
  split at hn
  · obtain ⟨k, -, rfl⟩ := List.mem_map.1 hn
    simp
  · simp at hn

section
variable {s : State} {e : StationSet} {turn : Turn} {r : EditResult} {x : State × List Notice × Bool}

theorem State.evict_eq (hr : s.ztu.remove s.tc.roster e s.self = r)
    (hx : (s.setTable r).ruReport turn { orig := none, op := none, own := none } r = x) :
    s.evict e turn = (x.1.postEither x.2.1 (s.evictedNotices r.left turn), x.2.2) := by
  subst hx
  unfold State.evict
  rw [hr]
  rfl

/-- An eviction that grants the own station nothing, at a station that is not in it. -/
theorem State.evict_of_others (hr : s.ztu.remove s.tc.roster e s.self = r) (hown : r.removals = [])
    (hg : ∀ g ∈ r.grants, g.entry.station ≠ s.self) :
    ∃ w, s.evict e turn =
      ({ s with
          ztu := r.ztu
          tc := { s.tc with roster := r.roster, waitTimer := w }
          hp := s.hp.posts (s.evictedNotices r.left turn) }, false) := by
  have hx := State.ruReport_of_others (s := s.setTable r) (turn := turn) (c := { orig := none, op := none, own := none })
    rfl (by simp) hown hg
  refine ⟨(s.setTable r).timerKept, (State.evict_eq hr hx).trans ?_⟩
  rw [State.postEither_nil_left]
  rfl

/-- Outside MEMBER an eviction reports nothing to the Request Unit. -/
theorem State.evict_of_not_member (hr : s.ztu.remove s.tc.roster e s.self = r) (hs : s.tc.state ≠ .member) :
    s.evict e turn =
      ({ s with
          ztu := r.ztu
          tc := { s.tc with roster := r.roster }
          hp := s.hp.posts (s.evictedNotices r.left turn) }, false) := by
  have hx := State.ruReport_of_not_member (s := s.setTable r) hs turn { orig := none, op := none, own := none } r
  refine (State.evict_eq hr hx).trans ?_
  rw [State.postEither_nil_left]
  rfl

/-- An eviction that grants a MEMBER waiting entries. -/
theorem State.evict_of_grants (hr : s.ztu.remove s.tc.roster e s.self = r) (hown : r.removals = [])
    (hs : s.tc.state = .member) (hw : s.ru.waitsIn (r.grantedTo s.self)) :
    ∃ t : State, s.evict e turn = (t, false) ∧
      s.grantsIn (r.grantedTo s.self) turn (s.evictedNotices r.left turn) t ∧
      ∃ w, t = { s with
        ztu := r.ztu
        tc := { s.tc with roster := r.roster, waitTimer := w }
        ru := t.ru
        hp := t.hp
        freeUsed := t.freeUsed } := by
  obtain ⟨t, ht, hmark, hgrants, heq⟩ := State.report_grants (u := s.setTable r) (turn := turn)
    (c := { orig := none, op := none, own := none }) (peers := s.evictedNotices r.left turn) hs rfl (by simp) hown hw
    (s.evictedNotices_not_granted r.left turn)
  refine ⟨t, ?_, hgrants, _, heq⟩
  rw [State.evict_eq hr rfl, ht, hmark]

end

theorem Ztu.remove_left (t : Ztu) (roster e : StationSet) (own : Station) : (t.remove roster e own).left = roster &&& e := by
  simp only [Ztu.remove]

/-- A removal that leaves the own station in reports no removal of its own. -/
theorem Ztu.remove_removals {e : StationSet} {own : Station} (h : StationSet.has e own = false) (t : Ztu)
    (roster : StationSet) : (t.remove roster e own).removals = [] := by
  simp only [Ztu.remove, Ztu.removalsOf, h, Bool.false_eq_true, if_false]

/-! ### The closure of a record -/

section
variable {s : State} {c : ClosureRecord}

/-- A closure that evicts some station. -/
theorem State.closeRecord_of_evict {e : StationSet} {u : State} (he : c.ending s.self = .evict e)
    (hu : (if e = 0 then (s, false) else s.evict e c.turn) = (u, false)) : s.closeRecord c = u.closureEffects c := by
  unfold State.closeRecord
  rw [he]
  dsimp only
  rw [hu]
  rfl

theorem State.closeRecord_of_lag {why : LagReason} (h : c.ending s.self = .lag why) : s.closeRecord c = s.lagEvent why := by
  unfold State.closeRecord
  rw [h]

/-- The effects of a closure at a station with nothing in transmission that stays in the group. -/
theorem State.closureEffects_of_tx_none (h : ¬ (s.tc.state = .leaving ∧ c.own = true)) (htx : s.fe.tx = none) :
    s.closureEffects c =
      { s with
        tc := { s.tc with
          closure := some { c with closed := true }
          waitTimer := if s.waitCond then some 0 else none }
        fe := { s.fe with rept := none } } := by
  have hr : s.recordClosed c =
      { s with tc := { s.tc with closure := some { c with closed := true } }, fe := { s.fe with rept := none } } := by
    simp only [State.recordClosed, State.onFe, State.onTc, Fe.withdraw_of_tx_none htx]
    rfl
  rw [State.closureEffects_of_stay h, hr]
  rfl

/-- The effects of the closure of the own LEAVE. -/
theorem State.closureEffects_of_left (h : s.tc.state = .leaving) (ho : c.own = true) (htx : s.fe.tx = none) :
    s.closureEffects c =
      { s with
        tc :=
          { state := .offline, turn := 0, lastApplied := none, roster := 0, closure := none, waitTimer := none }
        ztu := Ztu.reset
        cu := Cu.reset
        fe := { s.fe with rept := none }
        hp := s.hp.post { kind := .left, turn := some c.turn } } := by
  have hr : s.recordClosed c =
      { s with tc := { s.tc with closure := some { c with closed := true } }, fe := { s.fe with rept := none } } := by
    simp only [State.recordClosed, State.onFe, State.onTc, Fe.withdraw_of_tx_none htx]
    rfl
  rw [State.closureEffects_of_leave h ho, hr]
  rfl

/-- With every expected station in the final roll, a closure evicts nobody. -/
theorem ClosureRecord.ending_of_covers {self : Station} {roll : StationSet} (hr : c.lastRoll = some (.readable roll))
    (h : ∀ k : Station, StationSet.has c.expected k = true → StationSet.has roll k = true) : c.ending self = .evict 0 := by
  have hgone : c.expected &&& ~~~roll = 0 := by
    refine (StationSet.eq_zero_iff _).2 fun k => ?_
    have hk := h k
    rw [StationSet.has_and, StationSet.has_not]
    cases hx : StationSet.has c.expected k <;> simp_all
  rw [← hgone]
  obtain ⟨-, hends⟩ := closureEndsByTheFinalRoll c self
  obtain ⟨-, -, hevict⟩ := hends roll hr
  refine hevict (fun ⟨_, ⟨k, hk, hin⟩, hnone⟩ => ?_) fun ⟨hin, hout⟩ => ?_
  · exact absurd (h k hin) (by simp [hnone k hk hin])
  · rw [h self hin] at hout
    cases hout

end

/-- The lapse under a pending closure: its record is closed in the state with hold and timer cleared. -/
theorem exec_yieldLapse_of_pending {s : State} {c : ClosureRecord} (hr : s.pins.resetLow = false) (hl : s.lif.line = .idle)
    (hh : s.fe.hold = true) (hy : s.fe.yieldTimer ≠ none) (hc : s.tc.closure = some c) (hcl : c.closed = false) :
    exec .yieldLapse s = .next ((({ s with fe := s.fe.lapsed } : State).closeRecord c).onCu Cu.closeNewest) := by
  rw [exec_yieldLapse hr hl hh hy, State.yieldLapsed_eq]
  exact congrArg (fun u : State => Host.Outcome.next (u.onCu Cu.closeNewest))
    (State.takeClosure_of_pending (s := { s with fe := s.fe.lapsed }) hc hcl)

/-- A closure that ends in the eviction of `gone`, whose report carries no duplicate mark. -/
theorem State.closeRecord_evicts {s u : State} {c : ClosureRecord} {gone : StationSet}
    (he : c.ending s.self = .evict gone) (h0 : gone ≠ 0) (hu : s.evict gone c.turn = (u, false)) :
    s.closeRecord c = u.closureEffects c :=
  State.closeRecord_of_evict he (by rw [if_neg h0, hu])

section
variable {s : State} {c : ClosureRecord} {gone : StationSet} {r : EditResult}

/-- A closure that evicts others and grants the own station nothing. -/
theorem State.closeRecord_of_others (he : c.ending s.self = .evict gone) (h0 : gone ≠ 0)
    (hin : StationSet.has gone s.self = false) (hr : s.ztu.remove s.tc.roster gone s.self = r)
    (hg : ∀ g ∈ r.grants, g.entry.station ≠ s.self) (hstay : ¬ (s.tc.state = .leaving ∧ c.own = true))
    (htx : s.fe.tx = none) :
    s.closeRecord c =
      { s with
        ztu := r.ztu
        tc := { s.tc with
          roster := r.roster
          closure := some { c with closed := true }
          waitTimer := if s.waitCond then some 0 else none }
        fe := { s.fe with rept := none }
        hp := s.hp.posts (s.evictedNotices (s.tc.roster &&& gone) c.turn) } := by
  have hown : r.removals = [] := hr ▸ Ztu.remove_removals hin _ _
  have hleft : r.left = s.tc.roster &&& gone := hr ▸ Ztu.remove_left _ _ _ _
  obtain ⟨w, hevict⟩ := State.evict_of_others (turn := c.turn) hr hown hg
  generalize hu : ({ s with
    ztu := r.ztu
    tc := { s.tc with roster := r.roster, waitTimer := w }
    hp := s.hp.posts (s.evictedNotices r.left c.turn) } : State) = u at hevict
  have hcond : u.waitCond = s.waitCond := by
    rw [← hu]
    exact State.waitCond_congr rfl (Hp.posts_waitLimit _ _) rfl
  rw [State.closeRecord_evicts he h0 hevict,
    State.closureEffects_of_tx_none (by rw [← hu]; exact hstay) (by rw [← hu]; exact htx), hcond, ← hu, hleft]

/-- A closure that evicts others and grants a MEMBER waiting entries. -/
theorem State.closeRecord_of_grants (he : c.ending s.self = .evict gone) (h0 : gone ≠ 0)
    (hin : StationSet.has gone s.self = false) (hr : s.ztu.remove s.tc.roster gone s.self = r)
    (hs : s.tc.state = .member) (hw : s.ru.waitsIn (r.grantedTo s.self)) (htx : s.fe.tx = none) :
    ∃ t, s.closeRecord c = t ∧ t.ztu = r.ztu ∧
      t.tc =
        { s.tc with
          roster := r.roster
          closure := some { c with closed := true }
          waitTimer := if t.waitCond then some 0 else none } ∧
      s.grantsIn (r.grantedTo s.self) c.turn (s.evictedNotices (s.tc.roster &&& gone) c.turn) t ∧
      t.fe = { s.fe with rept := none } ∧ t.cu = s.cu ∧ t.lif = s.lif ∧ t.pins = s.pins ∧ t.pending = s.pending := by
  have hown : r.removals = [] := hr ▸ Ztu.remove_removals hin _ _
  have hleft : r.left = s.tc.roster &&& gone := hr ▸ Ztu.remove_left _ _ _ _
  obtain ⟨u, hevict, hgrants, w, hu⟩ := State.evict_of_grants (turn := c.turn) hr hown hs hw
  have hstate : u.tc.state = .member := by rw [hu]; exact hs
  have hutx : u.fe.tx = none := by rw [hu]; exact htx
  have hclose := State.closeRecord_evicts he h0 hevict
  rw [State.closureEffects_of_tx_none (by simp [hstate]) hutx] at hclose
  rw [hleft] at hgrants
  refine ⟨_, hclose, (congrArg State.ztu hu :), ?_, hgrants, ?_, (congrArg State.cu hu :), (congrArg State.lif hu :),
    (congrArg State.pins hu :), (congrArg State.pending hu :)⟩
  · have htc : u.tc = { s.tc with roster := r.roster, waitTimer := w } := congrArg State.tc hu
    exact congrArg (fun t : Tc =>
      { t with closure := some { c with closed := true }, waitTimer := if u.waitCond then some 0 else none }) htc
  · have hfe : u.fe = s.fe := (congrArg State.fe hu :)
    dsimp only
    rw [hfe]

/-- The closure of the own LEAVE, with what it evicts. -/
theorem State.closeRecord_of_left (he : c.ending s.self = .evict gone) (hs : s.tc.state = .leaving) (ho : c.own = true)
    (htx : s.fe.tx = none) :
    s.closeRecord c =
      { s with
        tc :=
          { state := .offline, turn := 0, lastApplied := none, roster := 0, closure := none, waitTimer := none }
        ztu := Ztu.reset
        cu := Cu.reset
        fe := { s.fe with rept := none }
        hp := s.hp.posts (s.evictedNotices (s.tc.roster &&& gone) c.turn ++ [{ kind := .left, turn := some c.turn }]) } := by
  rw [Hp.posts_append]
  by_cases h0 : gone = 0
  · subst h0
    have hnone : s.evictedNotices (s.tc.roster &&& 0) c.turn = [] := by
      have hz : s.tc.roster &&& (0 : StationSet) = 0 := BitVec.and_zero
      rw [State.evictedNotices_eq, hz]
      exact ite_self _
    rw [State.closeRecord_of_nobody he, State.closureEffects_of_left hs ho htx, hnone]
    rfl
  · generalize hr : s.ztu.remove s.tc.roster gone s.self = r
    have hleft : r.left = s.tc.roster &&& gone := hr ▸ Ztu.remove_left _ _ _ _
    have hevict := State.evict_of_not_member (turn := c.turn) hr (by simp [hs])
    have hclose := State.closeRecord_evicts he h0 hevict
    have heff := State.closureEffects_of_left (c := c) (s := { s with
      ztu := r.ztu
      tc := { s.tc with roster := r.roster }
      hp := s.hp.posts (s.evictedNotices r.left c.turn) }) hs ho htx
    rw [hclose, heff, hleft]
    rfl

end

/-- Settles O35: the closure before the CLOSE of another frame, and each end of a closure at a lapse. -/
theorem yieldLapseTakesTheClosure : Obligations.YieldLapseTakesTheClosure := by
  refine ⟨fun s f c h hc hcl hlog hn => ?_, fun s hr hl hh hy => ?_⟩
  · obtain ⟨hnone, hback⟩ := State.lapse_restored (l := { s.lif with line := .idle }) hlog rfl
    refine ⟨_, exec_yieldLapse h.1 rfl rfl (by simp), hnone, ?_⟩
    rw [exec_frameClose_of_pending h hc hn]
    exact congrArg (exec .frameClose) hback.symm
  · intro lapsed
    refine ⟨fun hc => ?_, fun c hc hcl htx => ?_⟩
    · have hex := exec_yieldLapse hr hl hh hy
      rw [State.yieldLapsed_eq, State.takeClosure_of_noClosure (s := { s with fe := s.fe.lapsed }) hc] at hex
      refine ⟨fun hlog => ?_, fun older e hlog => ?_⟩
      · rw [hex, State.closeNewest_of_empty (s := { s with fe := s.fe.lapsed }) hlog]
        rfl
      · rw [hex]
        simp only [State.onCu, Cu.closeNewest, hlog, onNewest_append]
        rfl
    · have hex := exec_yieldLapse_of_pending hr hl hh hy hc hcl
      let v : State := { s with fe := s.fe.lapsed }
      have hempty {u : State} (hu : v.closeRecord c = u) (hul : u.cu.log = []) : exec .yieldLapse s = .next u := by
        rw [hex, hu, State.closeNewest_of_empty hul]
      refine ⟨fun why he => ?_, fun roll hroll => ?_⟩
      · refine ⟨_, hempty (State.closeRecord_of_lag he) (State.lagEvent_log why v), ?_⟩
        exact State.lagsTo_lagEvent why htx rfl rfl rfl (Hp.posts_nil _).symm rfl rfl rfl rfl
      · intro gone evicted
        refine ⟨fun hlog hstay => ?_, fun hs ho he => ?_⟩
        · intro closed
          refine ⟨fun hcov => ?_, fun he h0 hin => ?_⟩
          · have hclose := State.closeRecord_of_nobody (c := c) (s := v) (ClosureRecord.ending_of_covers hroll hcov)
            exact hempty (hclose.trans (State.closureEffects_of_tx_none (s := v) hstay htx)) hlog
          · intro e
            have hr : v.ztu.remove v.tc.roster gone v.self = e := rfl
            clear_value e
            refine ⟨fun hg => ?_, fun hs hw => ?_⟩
            · exact hempty (State.closeRecord_of_others (s := v) he h0 hin hr hg hstay htx) hlog
            · obtain ⟨t, hclose, hztu, htc, hgrants, hfe, hcu, hlif, hpins, hpending⟩ :=
                State.closeRecord_of_grants (s := v) he h0 hin hr hs hw htx
              exact ⟨t, hempty hclose (by rw [hcu]; exact hlog), hztu, htc, hgrants, hfe, hcu, hlif, hpins, hpending⟩
        · have hclose := State.closeRecord_of_left (s := v) he hs ho htx
          exact ⟨_, hempty hclose rfl, rfl, Ztu.zone_reset, rfl, rfl, rfl, rfl, rfl, rfl, rfl⟩

end Sys2Proof.Machine
end

section
/-! SUPPORT. The roll handed over at REST_END to each block (R40, R55, R75 to R80, R87). -/

namespace Sys2Proof.Machine

/-! ### The roll of the own copy frame (R79, R80) -/

section
variable {s : State} {roll : Roll}

theorem State.copyRoll_of_idle (h : s.cu.phase = .idle) : s.copyRoll roll = s := if_pos h

/-- A copy frame that is not done yet is sent again with the next repeat number. -/
theorem State.copyRoll_of_partial (h : s.cu.phase ≠ .idle) (hw : ¬ roll.covers s.cu.streamSet = true)
    (h3 : s.cu.repNo ≠ 3) :
    s.copyRoll roll =
      { s with cu := { s.cu with repNo := s.cu.repNo + 1 }, fe := { s.fe with copy := some 0 } } := by
  unfold State.copyRoll
  rw [if_neg h, if_neg hw, if_neg h3]
  simp only [State.onCu, State.onFe, nextRep_of_ne h3]

/-- A copy frame that is done leaves the stations that its roll keeps. -/
theorem State.copyRoll_of_done (h : s.cu.phase ≠ .idle) (hd : roll.covers s.cu.streamSet = true ∨ s.cu.repNo = 3) :
    s.copyRoll roll = (s.onCu fun c => { c with streamSet := roll.keep c.streamSet }).copyFrameDone := by
  unfold State.copyRoll
  rw [if_neg h]
  by_cases hw : roll.covers s.cu.streamSet = true
  · rw [if_pos hw]
    exact congrArg (fun set => ({ s with cu := { s.cu with streamSet := set } } : State).copyFrameDone)
      (Roll.keep_of_covers hw).symm
  · rw [if_neg hw, if_pos (hd.resolve_left hw)]

theorem State.copyFrameDone_of_empty (h : s.cu.streamSet = 0) : s.copyFrameDone = s.abandonStream.startStream := if_pos h

theorem State.copyFrameDone_of_head (h : s.cu.streamSet ≠ 0) (hp : s.cu.phase = .head) (hc : s.cu.partCount ≠ 0) :
    s.copyFrameDone = s.nextPart 0 := by
  unfold State.copyFrameDone
  rw [if_neg h, hp]
  exact if_neg hc

theorem State.copyFrameDone_of_part (h : s.cu.streamSet ≠ 0) (hp : s.cu.phase = .parts)
    (hc : s.cu.partIndex + 1 < s.cu.partCount) : s.copyFrameDone = s.nextPart (s.cu.partIndex + 1) := by
  unfold State.copyFrameDone
  rw [if_neg h, hp]
  exact if_pos hc

theorem State.copyFrameDone_of_last (h : s.cu.streamSet ≠ 0)
    (hl : (s.cu.phase = .head ∧ s.cu.partCount = 0) ∨ (s.cu.phase = .parts ∧ s.cu.partCount ≤ s.cu.partIndex + 1)) :
    s.copyFrameDone = s.completeStream := by
  unfold State.copyFrameDone
  rw [if_neg h]
  rcases hl with ⟨hp, hc⟩ | ⟨hp, hc⟩ <;> rw [hp]
  · exact if_pos hc
  · exact if_neg (by omega)

/-- A stream that ends with nobody left in it: abandoned, and a new one begins for those that wait. -/
theorem State.copyFrameDone_of_nobody (h : s.cu.streamSet = 0) (hs : s.tc.state = .member) (htx : s.fe.tx = none) :
    s.copyFrameDone =
      if s.cu.waiting = 0 then
        { s with
          cu := { s.cu with phase := .idle, streamSet := 0, partIndex := 0, partCount := 0, repNo := 0, image := none }
          fe := { s.fe with copy := none } }
      else
        { s with
          cu := { s.cu with
            streamNo := s.cu.streamNo + 1, phase := .head, streamSet := 0, partIndex := 0, partCount := 0, repNo := 0
            image := none }
          fe := { s.fe with copy := some 0 } } := by
  rw [State.copyFrameDone_of_empty h, State.abandonStream_of_tx_none htx]
  exact State.startStream_of_idle rfl hs

theorem State.nextPart_of_parts (hp : s.cu.phase = .parts) (i : Nat) :
    s.nextPart i =
      { s with cu := { s.cu with partIndex := i, repNo := 0 }, fe := { s.fe with copy := some 0 } } := by
  simp only [State.nextPart, State.onCu, State.onFe, ← hp]

/-- A stream that is complete: a new one begins for those that wait. -/
theorem State.completeStream_eq (hs : s.tc.state = .member) :
    s.completeStream =
      if s.cu.waiting = 0 then { s with cu := { s.cu with phase := .idle, streamSet := 0, image := none } }
      else
        { s with
          cu := { s.cu with streamNo := s.cu.streamNo + 1, phase := .head, streamSet := 0, repNo := 0, image := none }
          fe := { s.fe with copy := some 0 } } :=
  State.startStream_of_idle rfl hs

end

/-! ### The hailer taken in (R75, R76) -/

section
variable {s : State} {h : Station}

theorem State.takeHailer_of_sending (hp : s.cu.phase ≠ .idle) (hne : s.cu.streamSet ≠ StationSet.one h) :
    s.takeHailer h = s.onCu (Cu.hailed h) := by
  rw [State.takeHailer_of_others hne]
  exact State.startStream_of_busy hp

theorem StationSet.one_ne_zero (h : Station) : (0 : StationSet) ≠ StationSet.one h := fun e => by
  have hh : StationSet.has (StationSet.one h) h = false := by rw [← e]; exact StationSet.has_zero h
  simp at hh

theorem State.takeHailer_of_free (hs : s.tc.state = .member) (hp : s.cu.phase = .idle) (hz : s.cu.streamSet = 0) :
    s.takeHailer h =
      { s with
        cu := { s.cu.hailed h with streamNo := s.cu.streamNo + 1, phase := .head, repNo := 0 }
        fe := { s.fe with copy := some 0 } } := by
  rw [State.takeHailer_of_others (by rw [hz]; exact StationSet.one_ne_zero h)]
  exact (State.startStream_of_idle (s := s.onCu (Cu.hailed h)) hp hs).trans (if_neg (StationSet.add_ne_zero _ _))

theorem State.takeHailer_of_last (hs : s.tc.state = .member) (he : s.cu.streamSet = StationSet.one h)
    (htx : s.fe.tx = none) :
    s.takeHailer h =
      { s with
        cu := { s.cu.hailed h with
          streamNo := s.cu.streamNo + 1, phase := .head, partIndex := 0, partCount := 0, repNo := 0, image := none }
        fe := { s.fe with copy := some 0 } } := by
  have hnone : (s.cu.hailed h).streamSet = 0 := by
    refine (StationSet.eq_zero_iff _).2 fun k => ?_
    simp only [Cu.hailed, he, StationSet.has_and, StationSet.has_not, Bool.and_not_self]
  have hstart := State.startStream_of_idle (s := (s.onCu (Cu.hailed h)).abandonStream) rfl hs
  have hw : (s.onCu (Cu.hailed h)).abandonStream.cu.waiting ≠ 0 := StationSet.add_ne_zero _ _
  rw [State.takeHailer_of_alone he, hstart, if_neg hw, State.abandonStream_of_tx_none (s := s.onCu (Cu.hailed h)) htx]
  exact congrArg (fun set => ({ s with
    cu := { s.cu.hailed h with
      streamNo := s.cu.streamNo + 1, phase := .head, streamSet := set, partIndex := 0, partCount := 0, repNo := 0
      image := none }
    fe := { s.fe with copy := some 0 } } : State)) hnone.symm

end

/-! ### The closure at repeat number 3 -/

/-- The closure that the roll of repeat number 3 takes is the one that a lapse takes, hold and timer apart (R40, R43). -/
theorem State.restClosure_of_lapse {s : State} (hr : s.pins.resetLow = false) (hl : s.cu.log = []) :
    ∃ u, exec .yieldLapse { s with lif := { s.lif with line := .idle }, fe := s.fe.held } = .next u ∧
      s.takeClosure.idled =
        { u with fe := { u.fe with hold := s.fe.hold, yieldTimer := if s.fe.hold then some 0 else none } } := by
  refine ⟨_, exec_yieldLapse hr rfl rfl (by simp [Fe.held]), ?_⟩
  rw [State.yieldLapsed_of_held hl, s.takeClosure_reframed]
  rfl

/-- Settles O32: the roll of a window by its use. -/
theorem restEndHandsTheRollOver : Obligations.RestEndHandsTheRollOver := by
  refine ⟨fun slots h => rollOf_of_damaged h, fun slots h => rollOf_of_readable h, fun s hr hl hlow hf => ?_⟩
  intro t holds
  have hholds (k : Station) : (rollOf s.fe.slots).holds k ↔ holds k := Roll.holds_rollOf s.fe.slots k
  have hcovers (set : StationSet) := Roll.covers_rollOf s.fe.slots set
  have hex {u : State} (hu : (s.onLif Lif.restOver).handRoll (rollOf s.fe.slots) = u)
      (huf : ∀ a, u.fe.tx = some a → a.faulted = false) : exec .restEnd s = .next u.idled :=
    exec_restEnd_of hr hl hlow hu huf
  generalize rollOf s.fe.slots = roll at *
  have hf' : ∀ a, s.restEnded.fe.tx = some a → a.faulted = false := hf
  refine ⟨fun huse => ?_, fun c huse hc hcl => ?_, fun h huse hs => ?_, fun huse hs htx => ?_, fun n older e huse hlog => ?_⟩
  · have hnone := (State.handRoll_of_none (s := s.onLif Lif.restOver) huse roll).trans s.restOver_endRoll
    exact hex hnone hf'
  · have hc' : s.restEnded.tc.closure = some c := hc
    have hread {u : State} (hu : s.restEnded.orderRoll roll = u) (huf : ∀ a, u.fe.tx = some a → a.faulted = false) :
        exec .restEnd s = .next u.idled := hex ((State.handRoll_of_order huse).trans hu) huf
    intro whole read
    have hwhole : roll.covers c.expected = true ↔ whole := hcovers c.expected
    refine ⟨fun h3 hw => ?_, fun h3 ho hw => ?_, fun h3 htx hl => ?_⟩
    · exact hread (State.orderRoll_of_whole hc' hcl h3 (hw.imp id hwhole.2)) hf
    · exact hread (State.orderRoll_of_partial hc' hcl h3 ho (fun h => hw (hwhole.1 h))) hf
    · obtain ⟨u, hu, hidled⟩ := State.restClosure_of_lapse (s := s.restEnded.rollRead c roll) hr hl
      refine ⟨u, hu, ?_⟩
      have htx' : (s.restEnded.rollRead c roll).takeClosure.fe.tx = none := State.takeClosure_tx_none htx
      rw [hread (State.orderRoll_of_last hc' hcl h3) (by simp [htx']), hidled]
      rfl
  · have hsel {u : State} (hu : s.restEnded.selectSource h roll = u) (huf : ∀ a, u.fe.tx = some a → a.faulted = false) :
        exec .restEnd s = .next u.idled := hex ((State.handRoll_of_hail huse).trans hu) huf
    intro chosen waits
    have hchosen : s.restEnded.isChosen h roll ↔ chosen := by
      refine and_congr Iff.rfl (and_congr (hholds _) ?_)
      exact forall_congr' fun j => imp_congr Iff.rfl (imp_congr Iff.rfl (not_congr (hholds j)))
    have htake {u : State} (hc : chosen) (hu : s.restEnded.takeHailer h = u)
        (huf : ∀ a, u.fe.tx = some a → a.faulted = false) : exec .restEnd s = .next u.idled :=
      hsel ((State.selectSource_of_chosen (s := s.restEnded) hs (hchosen.2 hc)).trans hu) huf
    refine ⟨fun hc => ?_, fun hc hp hne => ?_, fun hc hp hz => ?_, fun hc he htx => ?_⟩
    · exact hsel (State.selectSource_of_not fun h => hc (hchosen.1 h)) hf
    · exact htake hc (State.takeHailer_of_sending (s := s.restEnded) hp hne) hf
    · exact htake hc (State.takeHailer_of_free (s := s.restEnded) hs hp hz) hf
    · exact htake hc (State.takeHailer_of_last (s := s.restEnded) hs he htx) hf
  · have hcopy {u : State} (hu : s.restEnded.copyRoll roll = u) (huf : u.fe.tx = none) : exec .restEnd s = .next u.idled :=
      hex ((State.handRoll_of_ownCopy huse).trans hu) (by simp [huf])
    intro whole offered begun dropped
    have hwhole : roll.covers s.cu.streamSet = true ↔ whole := hcovers s.cu.streamSet
    refine ⟨fun hp => ?_, fun hp hw h3 => ?_, fun left hleft hp hd => ?_⟩
    · exact hcopy (State.copyRoll_of_idle hp) htx
    · exact hcopy (State.copyRoll_of_partial (s := s.restEnded) hp (fun h => hw (hwhole.1 h)) h3) htx
    · intro kept
      have hkeep : roll.keep s.cu.streamSet = left :=
        StationSet.ext_has fun k => Bool.eq_iff_iff.2
          ((Roll.has_keep roll _ k).trans ((and_congr_right fun _ => hholds k).trans (hleft k).symm))
      have hdone {u : State} (hu : (s.restEnded.onCu fun c => { c with streamSet := left }).copyFrameDone = u)
          (huf : u.fe.tx = none) : exec .restEnd s = .next u.idled := by
        refine hcopy (Eq.trans ?_ hu) huf
        rw [← hkeep]
        exact State.copyRoll_of_done hp (hd.imp hwhole.2 id)
      let v : State := s.restEnded.onCu fun c => { c with streamSet := left }
      refine ⟨fun h0 => ?_, fun h0 hph hc => ?_, fun h0 hph hc => ?_, fun h0 hl => ?_⟩
      · have hn := State.copyFrameDone_of_nobody (s := v) h0 hs htx
        by_cases hw : s.cu.waiting = 0
        · refine (hdone (hn.trans (if_pos hw)) htx).trans ?_
          simp only [dropped, begun, if_pos hw]
          rfl
        · refine (hdone (hn.trans (if_neg hw)) htx).trans ?_
          simp only [dropped, begun, if_neg hw]
          rfl
      · exact hdone (State.copyFrameDone_of_head (s := v) h0 hph hc) htx
      · exact hdone ((State.copyFrameDone_of_part (s := v) h0 hph hc).trans (State.nextPart_of_parts (s := v) hph _)) htx
      · have hn := (State.copyFrameDone_of_last (s := v) h0 hl).trans (State.completeStream_eq hs)
        by_cases hw : s.cu.waiting = 0
        · refine (hdone (hn.trans (if_pos hw)) htx).trans ?_
          simp only [begun, if_pos hw]
          rfl
        · refine (hdone (hn.trans (if_neg hw)) htx).trans ?_
          simp only [begun, if_neg hw]
          rfl
  · refine (hex (State.handRoll_of_log huse) hf).trans ?_
    have hr : (s.cu.logRoll n roll) = { s.cu with
        log := older ++ [if e.closed then e else { e with lastRoll := some roll, closed := decide (n = 3) }] } := by
      unfold Cu.logRoll
      rw [hlog, onNewest_append]
      rfl
    exact congrArg (fun c => Host.Outcome.next { t with cu := c }) hr

end Sys2Proof.Machine
end

section
/-! SUPPORT. A roll cut short: what the blocks make of it does not depend on the Line Interface (R151, R177). -/

namespace Sys2Proof.Machine

/-! ### The blocks that read a roll, under changes outside them -/

section
variable {p : Pins} {l : Lif} {F : Fe → Fe}

/-- A change of the Frame Engine that commutes with `F`. -/
theorem State.outer_onFe {g : Fe → Fe} (s : State) (h : F (g s.fe) = g (F s.fe)) :
    (s.outer p l F).onFe g = (s.onFe g).outer p l F :=
  congrArg (fun f => ({ s with pins := p, lif := l, fe := f } : State)) h.symm

theorem State.outer_enterFounding (hF : Fe.Outer F) (s : State) :
    (s.outer p l F).enterFounding = s.enterFounding.outer p l F := by
  exact congrArg (State.onCu Cu.stopLog) (State.outer_onFe (s.setState .founding) (hF.join _ _))

theorem State.outer_hailAnswer (hF : Fe.Outer F) (roll : Roll) (s : State) :
    (s.outer p l F).hailAnswer roll = (s.hailAnswer roll).outer p l F := by
  by_cases h : s.tc.state = .hailing
  · cases roll with
    | unreadable =>
      rw [State.hailAnswer_of_unreadable h, State.hailAnswer_of_unreadable (s := s.outer p l F) h,
        State.outer_enterHailing hF]
    | readable set =>
      have hs : (s.outer p l F).self = s.self := rfl
      rw [State.hailAnswer_of_readable h, State.hailAnswer_of_readable (s := s.outer p l F) h, hs]
      cases StationSet.lowest (StationSet.del set s.self) with
      | none => exact State.outer_enterFounding hF s
      | some k => rfl
  · have h1 : s.hailAnswer roll = s := if_pos h
    have h2 : (s.outer p l F).hailAnswer roll = s.outer p l F := if_pos h
    rw [h1, h2]

theorem State.outer_startStream (hF : Fe.Outer F) (s : State) :
    (s.outer p l F).startStream = s.startStream.outer p l F := by
  unfold State.startStream
  rw [apply_ite (State.outer p l F), State.outer_onCu]
  exact if_congr Iff.rfl (State.outer_onFe _ (hF.copy _ _)) rfl

theorem State.outer_abandonStream (hF : Fe.Outer F) (s : State) :
    (s.outer p l F).abandonStream = s.abandonStream.outer p l F :=
  State.outer_withdraw hF .copy (s.onCu Cu.abandon)

theorem State.outer_takeHailer (hF : Fe.Outer F) (h : Station) (s : State) :
    (s.outer p l F).takeHailer h = (s.takeHailer h).outer p l F := by
  by_cases he : s.cu.streamSet = StationSet.one h
  · rw [State.takeHailer_of_alone he, State.takeHailer_of_alone (s := s.outer p l F) he, State.outer_onCu,
      State.outer_abandonStream hF, State.outer_startStream hF]
  · rw [State.takeHailer_of_others he, State.takeHailer_of_others (s := s.outer p l F) he, State.outer_onCu,
      State.outer_startStream hF]

theorem State.outer_selectSource (hF : Fe.Outer F) (h : Station) (roll : Roll) (s : State) :
    (s.outer p l F).selectSource h roll = (s.selectSource h roll).outer p l F := by
  cases roll with
  | unreadable => rfl
  | readable set =>
    unfold State.selectSource
    dsimp only
    rw [apply_ite (State.outer p l F), ← State.outer_takeHailer hF]
    rfl

theorem State.outer_nextPart (hF : Fe.Outer F) (i : Nat) (s : State) :
    (s.outer p l F).nextPart i = (s.nextPart i).outer p l F := by
  exact State.outer_onFe (s.onCu fun c => { c with phase := .parts, partIndex := i, repNo := 0 }) (hF.copy _ _)

theorem State.outer_completeStream (hF : Fe.Outer F) (s : State) :
    (s.outer p l F).completeStream = s.completeStream.outer p l F := by
  unfold State.completeStream
  rw [State.outer_onCu, State.outer_startStream hF]

theorem State.outer_copyFrameDone (hF : Fe.Outer F) (s : State) :
    (s.outer p l F).copyFrameDone = s.copyFrameDone.outer p l F := by
  have hc : (s.outer p l F).cu = s.cu := rfl
  unfold State.copyFrameDone
  rw [apply_ite (State.outer p l F), hc, State.outer_abandonStream hF, State.outer_startStream hF]
  refine if_congr Iff.rfl rfl ?_
  cases s.cu.phase with
  | idle => rfl
  | head =>
    dsimp only
    rw [apply_ite (State.outer p l F), State.outer_completeStream hF, State.outer_nextPart hF]
  | parts =>
    dsimp only
    rw [apply_ite (State.outer p l F), State.outer_completeStream hF, State.outer_nextPart hF]

theorem State.outer_copyRoll (hF : Fe.Outer F) (roll : Roll) (s : State) :
    (s.outer p l F).copyRoll roll = (s.copyRoll roll).outer p l F := by
  have hc : (s.outer p l F).cu = s.cu := rfl
  have hr : ((s.outer p l F).onCu fun c => { c with repNo := nextRep c.repNo }).onFe (fun f => { f with copy := some 0 }) =
      ((s.onCu fun c => { c with repNo := nextRep c.repNo }).onFe fun f => { f with copy := some 0 }).outer p l F :=
    State.outer_onFe (s.onCu fun c => { c with repNo := nextRep c.repNo }) (hF.copy _ _)
  unfold State.copyRoll
  rw [hr, hc, State.outer_onCu, State.outer_copyFrameDone hF, State.outer_copyFrameDone hF]
  simp only [apply_ite (State.outer p l F)]

theorem State.outer_orderRoll (hF : Fe.Outer F) (roll : Roll) (s : State) :
    (s.outer p l F).orderRoll roll = (s.orderRoll roll).outer p l F := by
  by_cases hp : s.noClosure
  · have hn {u : State} (h : u.noClosure) : u.orderRoll roll = u := by
      unfold State.noClosure at h
      unfold State.orderRoll
      cases hc : u.tc.closure with
      | none => rfl
      | some c =>
        rw [hc] at h
        exact if_pos h
    rw [hn hp, hn (u := s.outer p l F) hp]
  · unfold State.noClosure at hp
    cases hc : s.tc.closure with
    | none => simp [hc] at hp
    | some c =>
      have hcl : c.closed = false := by simpa [hc] using hp
      have hread : (s.outer p l F).rollRead c roll = (s.rollRead c roll).outer p l F := rfl
      have hrept : ((s.rollRead c roll).outer p l F).onFe
            (fun f => { f with rept := some { frame := c.repeatFrame, tries := 0 } }) =
          ((s.rollRead c roll).onFe fun f => { f with rept := some { frame := c.repeatFrame, tries := 0 } }).outer p l F :=
        State.outer_onFe (s.rollRead c roll) (hF.rept _ _)
      rw [State.orderRoll_of_pending hc hcl, State.orderRoll_of_pending (s := s.outer p l F) hc hcl, hread,
        State.outer_takeClosure hF, hrept]
      simp only [apply_ite (State.outer p l F)]

/-- The roll read by the block of `use`. -/
def State.rollTo (use : RollUse) (roll : Roll) (s : State) : State :=
  match use with
  | .none => s
  | .order => s.orderRoll roll
  | .log repNo => s.onCu (Cu.logRoll repNo roll)
  | .ownHail => s.hailAnswer roll
  | .hail hailer => s.selectSource hailer roll
  | .ownCopy => s.copyRoll roll

theorem State.handRoll_eq (roll : Roll) (s : State) : s.handRoll roll = (s.onFe Fe.endRoll).rollTo s.fe.rollUse roll := by
  unfold State.handRoll
  cases s.fe.rollUse <;> rfl

/-- Every block reads a roll in the same way whatever stands outside it. -/
theorem State.outer_rollTo (hF : Fe.Outer F) (use : RollUse) (roll : Roll) (s : State) :
    (s.outer p l F).rollTo use roll = (s.rollTo use roll).outer p l F := by
  cases use with
  | none => rfl
  | order => exact State.outer_orderRoll hF roll s
  | log repNo => rfl
  | ownHail => exact State.outer_hailAnswer hF roll s
  | hail hailer => exact State.outer_selectSource hF hailer roll s
  | ownCopy => exact State.outer_copyRoll hF roll s

end

theorem State.rollTo_reframed (use : RollUse) (roll : Roll) (s : State) :
    s.rollTo use roll =
      { s.rollTo use roll with pins := s.pins, lif := s.lif, fe := s.fe.reframed (s.rollTo use roll).fe } :=
  State.outer_rollTo (p := s.pins) (l := s.lif) (Fe.outer_reframed s.fe) use roll s

theorem State.rollTo_tx_none {s : State} (h : s.fe.tx = none) (use : RollUse) (roll : Roll) :
    (s.rollTo use roll).fe.tx = none := by
  have hs : s.outer s.pins s.lif Fe.silent = s := by
    simp only [State.outer, Fe.silent, ← h]
  have e := State.outer_rollTo (p := s.pins) (l := s.lif) Fe.outer_silent use roll s
  rw [hs] at e
  rw [e]
  rfl

theorem Fe.outer_id : Fe.Outer (fun f => f) := ⟨fun _ _ => rfl, fun _ _ => rfl, fun _ _ => rfl, fun _ _ => rfl, fun _ _ => rfl⟩

/-! ### A roll window cut short -/

/-- A roll read as unreadable under any line is what a REST_END after a DAMAGED slot makes of it, the line and the yield timer
apart. -/
theorem State.handRoll_unreadable {s : State} (hr : s.pins.resetLow = false) (htx : s.fe.tx = none) :
    ∃ t, s.readsUnreadable t ∧ t.fe.tx = none ∧ t.fe.hold = s.fe.hold ∧ t.fe.rx = s.fe.rx ∧ t.pins = s.pins ∧
      ∀ l : Lif, ({ s with lif := l } : State).handRoll .unreadable =
        { t with lif := l, fe := { t.fe with yieldTimer := s.fe.yieldTimer } } := by
  let u : State := (s.onFe Fe.endRoll).rollTo s.fe.rollUse .unreadable
  have hu : u = { u with pins := s.pins, lif := s.lif, fe := s.fe.endRoll.reframed u.fe } :=
    State.rollTo_reframed _ _ _
  have hutx : u.fe.tx = none := State.rollTo_tx_none (s := s.onFe Fe.endRoll) htx _ _
  have hand (l : Lif) : ({ s with lif := l } : State).handRoll .unreadable = u.outer s.pins l fun f => f :=
    (State.handRoll_eq _ _).trans
      (State.outer_rollTo (p := s.pins) (l := l) Fe.outer_id s.fe.rollUse .unreadable (s.onFe Fe.endRoll))
  have hread (l : Lif) : ({ s with lif := l, fe := { s.fe with slots := [.damaged] } } : State).handRoll .unreadable =
      u.outer s.pins l fun f => f :=
    (State.handRoll_eq _ _).trans
      (State.outer_rollTo (p := s.pins) (l := l) Fe.outer_id s.fe.rollUse .unreadable (s.onFe Fe.endRoll))
  refine ⟨_, exec_restEnd_of hr rfl rfl (hread _) ?_, hutx, ?_, ?_, rfl, fun l => ?_⟩
  · intro a ha
    simp [State.outer, hutx] at ha
  · exact (congrArg (fun v : State => v.fe.hold) hu :)
  · exact (congrArg (fun v : State => v.fe.rx) hu :)
  · rw [hand]
    have hy : u.fe.yieldTimer = s.fe.yieldTimer := (congrArg (fun v : State => v.fe.yieldTimer) hu :)
    rw [← hy]
    rfl

end Sys2Proof.Machine
end

section
/-! SUPPORT. The line before and after a pulse, in the words of the statements: what a sender compares, recessive time that
meets no fault, pulses that pass every test; and the frames that begin (R144 to R157, R172). -/

namespace Sys2Proof.Machine

/-! ### What a sender compares (R172) -/

section
variable {s : State}

theorem State.underTest_eq_some_iff {x : Symbol} :
    s.underTest = some x ↔ ∃ a, s.fe.tx = some a ∧ a.faulted = false ∧ s.compares a x := by
  unfold State.underTest State.sending State.compares
  rw [Option.bind_eq_some_iff]
  refine exists_congr fun a => ?_
  rw [Option.filter_eq_some_iff, Bool.not_eq_true', and_assoc]
  refine and_congr_right fun _ => and_congr_right fun _ => ?_
  cases s.fe.rx with
  | none =>
    dsimp only
    split
    · rename_i hl
      rw [Option.some.injEq, eq_comm (a := Symbol.openSymbol)]
      exact (and_iff_right hl).symm
    · rename_i hl
      simp [hl]
  | some r =>
    dsimp only [Attempt.bitAt]
    rw [Option.map_eq_some_iff]
    simp only [eq_comm]

theorem State.underTest_of_compares {a : Attempt} {x : Symbol} (htx : s.fe.tx = some a) (hf : a.faulted = false)
    (h : s.compares a x) : s.underTest = some x :=
  State.underTest_eq_some_iff.2 ⟨a, htx, hf, h⟩

theorem State.underTest_eq_none (h : ∀ a x, s.fe.tx = some a → a.faulted = false → ¬ s.compares a x) :
    s.underTest = none := by
  cases hu : s.underTest with
  | none => rfl
  | some x =>
    obtain ⟨a, htx, hf, hx⟩ := State.underTest_eq_some_iff.1 hu
    exact absurd hx (h a x htx hf)

theorem State.underTest_of_faulted (h : ∀ a, s.fe.tx = some a → a.faulted = true) : s.underTest = none :=
  State.underTest_eq_none fun a _ htx hf => by simp [h a htx] at hf

theorem State.compares_bit {a : Attempt} {r : Reception} {b : Bool} (hrx : s.fe.rx = some r)
    (hb : a.bits[r.bits.length]? = some b) : s.compares a (.bit b) := by
  unfold State.compares
  rw [hrx]
  exact ⟨b, hb, rfl⟩

theorem State.compares_open {a : Attempt} (hrx : s.fe.rx = none) (hl : s.lif.line = .busy .pulse) :
    s.compares a .openSymbol := by
  unfold State.compares
  rw [hrx]
  exact ⟨hl, rfl⟩

/-! ### Recessive time -/

/-- Outside a frame and a pulse under classification no pulse is due. -/
theorem State.pulseDue_of_line (h1 : s.lif.line ≠ .busy .frame) (h2 : s.lif.line ≠ .busy .pulse) : s.pulseDue = none := by
  unfold State.pulseDue
  cases s.underTest with
  | none => rfl
  | some x => simp [h1, h2]

theorem State.quietPassed_of_forall {t : Nat}
    (h : ∀ a x, s.fe.tx = some a → a.faulted = false → s.compares a x → ¬ s.runsOut a x t) :
    s.quietPassed t = s.onLif (Lif.pass t) := by
  cases hu : s.underTest with
  | none => exact State.quietPassed_of_none (State.pulseDue_of_none hu) t
  | some x =>
    obtain ⟨a, htx, hf, hx⟩ := State.underTest_eq_some_iff.1 hu
    exact State.quietPassed_of_not_runsOut hu (h a x htx hf hx) htx

theorem State.stretchPassed_of_forall {g : Nat}
    (h : ∀ a x, s.fe.tx = some a → a.faulted = false → s.compares a x → ¬ s.runsOut a x (g - s.lif.lasted)) :
    s.stretchPassed g = { s with lif := s.lif.gapHeard g } :=
  State.stretchPassed_eq_gapHeard (State.quietPassed_of_forall h)

theorem State.stretchPassed_of_line (h1 : s.lif.line ≠ .busy .frame) (h2 : s.lif.line ≠ .busy .pulse) (g : Nat) :
    s.stretchPassed g = { s with lif := s.lif.gapHeard g } :=
  State.stretchPassed_eq_gapHeard (State.quietPassed_of_none (State.pulseDue_of_line h1 h2) _)

/-! ### Pulses that pass every test -/

theorem State.pulseTested_of_forall {len : Nat}
    (h : ∀ a x, s.fe.tx = some a → a.faulted = false → s.compares a x →
      s.startsWithin a x 0 ∧ x.window.1 ≤ len ∧ len ≤ x.window.2) : s.pulseTested len = s := by
  cases hu : s.underTest with
  | none => exact State.pulseTested_of_none hu len
  | some x =>
    obtain ⟨a, htx, hf, hx⟩ := State.underTest_eq_some_iff.1 hu
    obtain ⟨hstart, h1, h2⟩ := h a x htx hf hx
    exact State.pulseTested_of_within hu (State.startOff_of_startsWithin hu htx hstart) h1 h2

theorem State.pulsePassed_of_tested {len : Nat} (h : s.pulseTested len = s) :
    s.pulsePassed len = { s with lif := s.lif.heard len } := by
  unfold State.pulsePassed
  rw [h, ← Lif.pulse_eq_heard]
  rfl

end

/-! ### LINE_DOMINANT (R151, R157, R167) -/

theorem exec_lineDominant {s : State} (h : s.pins.resetLow = false) : exec .lineDominant s = .next s.dominantEdge :=
  live_of_high h _

theorem State.dominantEdge_of_roll {s : State} (h : s.lif.line = .busy .roll) : s.dominantEdge = s := if_pos h

theorem State.dominantEdge_of_rest {s : State} (h : s.lif.line = .busy .rest) :
    s.dominantEdge = ({ s with lif := s.lif.gapHeard 0 } : State).cutRoll := by
  unfold State.dominantEdge
  rw [if_neg (by simp [h]), if_pos h, State.stretchPassed_of_line (by simp [h]) (by simp [h])]

theorem State.dominantEdge_of_others {s : State} (h1 : s.lif.line ≠ .busy .roll) (h2 : s.lif.line ≠ .busy .rest) :
    s.dominantEdge = (s.stretchPassed 0).leaveIdle := by
  unfold State.dominantEdge
  rw [if_neg h1]
  exact if_neg h2

@[simp] theorem Lif.gapHeard_line (g : Nat) (l : Lif) : (l.gapHeard g).line = l.line := by
  unfold Lif.gapHeard
  split <;> rfl

theorem State.leaveIdle_of_idle {s : State} (h : s.lif.line = .idle) :
    s.leaveIdle = { s with lif := { s.lif with line := .busy .pulse }, fe := { s.fe with yieldTimer := none } } := if_pos h

theorem State.leaveIdle_of_not {s : State} (h : s.lif.line ≠ .idle) : s.leaveIdle = s := if_neg h

/-- A roll in progress cut short, in the words of the statements. -/
theorem State.cutRoll_unreadable {s : State} (hr : s.pins.resetLow = false) (htx : s.fe.tx = none) :
    ∃ t, s.readsUnreadable t ∧ t.fe.tx = none ∧ t.fe.hold = s.fe.hold ∧ t.fe.rx = s.fe.rx ∧ t.pins = s.pins ∧
      ∀ l : Lif, l.line = .busy .roll ∨ l.line = .busy .rest → ({ s with lif := l } : State).cutRoll =
        { t with lif := l, fe := { t.fe with yieldTimer := s.fe.yieldTimer } } := by
  obtain ⟨t, h1, h2, h3, h4, h5, h6⟩ := State.handRoll_unreadable hr htx
  refine ⟨t, h1, h2, h3, h4, h5, fun l hl => (if_pos ?_).trans (h6 l)⟩
  rcases hl with hl | hl <;> simp [Lif.inRoll, hl]

/-! ### OPEN (R148, R162) -/

/-- An OPEN pulse in any state of the line is one that has ended there. -/
theorem exec_openPulse {s : State} {pulse : Stretch} {len : Nat} (h : s.pins.resetLow = false)
    (hp : Stretch.seen pulse = some len) (hlen : readPulse len = .openSymbol) :
    exec (.openPulse pulse) s = .next (s.pulseEnded none len) := by
  have hread : s.lif.pulseRead (· == .openSymbol) pulse = some len := by
    rw [Lif.pulseRead, Lif.pulseLength_of_seen hp]
    simp [hlen]
  change execOpenPulse pulse s = _
  rw [execOpenPulse, live_of_high h, hread]

theorem State.startPulse_of_open {s : State} {len : Nat} (h : readPulse len = .openSymbol) :
    s.startPulse len = (s.pulsePassed len).openSeen := by
  unfold State.startPulse
  rw [h]

theorem State.unsyncedPulse_of_open {s : State} {len : Nat} (h : readPulse len = .openSymbol) :
    s.unsyncedPulse len = ({ s with lif := s.lif.heard len } : State).openSeen := by
  rw [← Lif.pulse_eq_heard]
  unfold State.unsyncedPulse
  rw [h]
  rfl

/-- A pulse where a frame may begin, after the OPEN's edge or without one. -/
theorem State.pulseEnded_of_start {s : State} (h : s.lif.line = .idle ∨ s.lif.line = .busy .pulse ∨
    s.lif.line = .busy .haltRest ∨ s.lif.line = .busy .rest) (gap : Option Nat) (len : Nat) :
    s.pulseEnded gap len = s.startPulse len := by
  unfold State.pulseEnded
  rcases h with h | h | h | h <;> rw [h]

theorem State.pulseEnded_of_unsynced {s : State} (h : s.lif.line = .unsynced) (gap : Option Nat) (len : Nat) :
    s.pulseEnded gap len = s.unsyncedPulse len := by
  unfold State.pulseEnded
  rw [h]

/-- The mark of a frame that begins here: the own OPEN drive was taken for its pulse (R166). -/
def State.marksOwn (s : State) : Bool := (s.fe.tx.any fun a => !a.missed) && s.lif.line == .busy .pulse

/-- An OPEN with no roll in progress starts a reception. -/
theorem State.openSeen_of_noRoll {s : State} (h : s.lif.inRoll = false) :
    s.openSeen =
      { s with
        lif := { s.lif with line := .busy .frame }
        fe := { s.fe with
          rx := some (Reception.start s.marksOwn)
          yieldTimer := if s.lif.line = .idle then none else s.fe.yieldTimer } } := by
  unfold State.openSeen
  by_cases hi : s.lif.line = .idle
  · rw [State.leaveIdle_of_idle hi, State.cutRoll_of_not rfl, if_pos hi]
    rfl
  · rw [State.leaveIdle_of_not hi, State.cutRoll_of_not h, if_neg hi]
    rfl

/-- An OPEN in the REST cuts the roll short. -/
theorem State.openSeen_of_rest {s : State} (h : s.lif.line = .busy .rest) :
    s.openSeen =
      (s.cutRoll.setLine (.busy .frame)).onFe fun f => { f with rx := some (Reception.start s.marksOwn) } := by
  unfold State.openSeen
  rw [State.leaveIdle_of_not (by simp [h])]
  rfl

/-- Settles O22. -/
theorem framesOpen : Obligations.FramesOpen := by
  refine ⟨fun s hr => ?_, fun s pulse len hr hp h160 h240 hrx hown => ?_⟩
  · intro edge
    rw [exec_lineDominant hr]
    refine ⟨fun hl => ?_, fun hl => ?_, fun hl htx => ?_, fun h1 h2 h3 hrun => ?_⟩
    · rw [State.dominantEdge_of_others (by simp [hl]) (by simp [hl]),
        State.stretchPassed_of_line (by simp [hl]) (by simp [hl])]
      exact congrArg Host.Outcome.next (State.leaveIdle_of_idle (by simpa using hl))
    · rw [State.dominantEdge_of_roll hl]
    · obtain ⟨t, hread, -, -, -, -, hcut⟩ := State.cutRoll_unreadable hr htx
      refine ⟨t, hread, ?_⟩
      rw [State.dominantEdge_of_rest hl, hcut edge (by simp [edge, hl])]
    · rw [State.dominantEdge_of_others h2 h3, State.stretchPassed_of_forall (by simpa using hrun)]
      exact congrArg Host.Outcome.next (State.leaveIdle_of_not (by simpa using h1))
  · have hopen : readPulse len = .openSymbol := (readPulse_eq_iff len .openSymbol).2 ⟨h160, h240⟩
    intro lif rx
    have htested : s.pulseTested len = s := by
      refine State.pulseTested_of_forall fun a x htx hf hx => ?_
      unfold State.compares at hx
      rw [hrx] at hx
      obtain ⟨hl, rfl⟩ := hx
      exact hown a htx hf hl
    have hmark : Reception.start ({ s with lif := s.lif.heard len } : State).marksOwn = rx := by
      simp only [State.marksOwn, rx, Reception.start]
      rfl
    have hstart (hl : s.lif.line = .idle ∨ s.lif.line = .busy .pulse ∨ s.lif.line = .busy .haltRest ∨
        s.lif.line = .busy .rest) :
        exec (.openPulse pulse) s = .next ({ s with lif := s.lif.heard len } : State).openSeen := by
      rw [exec_openPulse hr hp hopen, State.pulseEnded_of_start hl, State.startPulse_of_open hopen,
        State.pulsePassed_of_tested htested]
    have hfree (hl : s.lif.line = .idle ∨ s.lif.line = .busy .pulse ∨ s.lif.line = .unsynced ∨
        s.lif.line = .busy .haltRest) :
        exec (.openPulse pulse) s = .next ({ s with lif := s.lif.heard len } : State).openSeen := by
      rcases hl with hl | hl | hl | hl
      · exact hstart (.inl hl)
      · exact hstart (.inr (.inl hl))
      · rw [exec_openPulse hr hp hopen, State.pulseEnded_of_unsynced hl, State.unsyncedPulse_of_open hopen]
      · exact hstart (.inr (.inr (.inl hl)))
    refine ⟨fun hl => ?_, fun hl htx => ?_⟩
    · have hroll : ({ s with lif := s.lif.heard len } : State).lif.inRoll = false := by
        change (s.lif.line == .busy .roll || s.lif.line == .busy .rest) = false
        rcases hl with hl | hl | hl | hl <;> rw [hl] <;> rfl
      rw [hfree hl, State.openSeen_of_noRoll hroll, hmark]
      rfl
    · obtain ⟨t, hread, -, -, -, -, hcut⟩ := State.cutRoll_unreadable hr htx
      refine ⟨t, hread, ?_⟩
      rw [hstart (.inr (.inr (.inr hl))), State.openSeen_of_rest (s := { s with lif := s.lif.heard len }) hl,
        hcut (s.lif.heard len) (.inr hl), hmark]
      rfl

end Sys2Proof.Machine
end

section
/-! SUPPORT. A drive that runs out with no pulse begun, and the CLOSE of a frame that is not accepted (R163, R164, R172). -/

namespace Sys2Proof.Machine

/-! ### Faults in the words of the statements -/

theorem Lif.pass_drives_halt (t : Nat) (l : Lif) : (l.pass t).drives .haltSymbol = l.haltAfter t := by
  rw [Lif.pass_eq_later]
  rfl

section
variable {s : State} {a : Attempt} {x : Symbol}

/-- A drive of the symbol compared runs out on a recessive line: what is left of it then is what the sender waits for. -/
theorem State.pulseDue_of_drive (htx : s.fe.tx = some a) (hf : a.faulted = false) (hx : s.compares a x)
    (hl : s.lif.line = .busy .frame ∨ s.lif.line = .busy .pulse) (hlow : s.lif.low = false) (ha : s.askedFor a) :
    s.pulseDue = some (s.lif.driveLeft x) :=
  State.pulseDue_of_asked (State.underTest_of_compares htx hf hx) ((State.asked_iff htx).2 ha) hlow hl

theorem Lif.driveLeft_of_drive {l : Lif} {left : Nat} (h : l.drive = some { symbol := x, left := left }) :
    l.driveLeft x = left := by
  simp [Lif.driveLeft, h]

/-- A bit that was not asked for is due at no time. -/
theorem State.pulseDue_of_unasked (htx : s.fe.tx = some a) (h : ¬ s.askedFor a) : s.pulseDue = none := by
  have ha : s.asked = false := Bool.eq_false_iff.2 fun e => h ((State.asked_iff htx).1 e)
  unfold State.pulseDue
  cases s.underTest with
  | none => rfl
  | some x => simp [ha]

/-- The own drive ends within the recessive time: the fault is found there, and the rest of the time passes after it. -/
theorem State.quietPassed_of_runOut {n t : Nat} (htx : s.fe.tx = some a) (h : s.pulseDue = some n) (ht : n ≤ t) :
    s.quietPassed t =
      { s with lif := (s.lif.haltAfter n).later (t - n), fe := { s.fe with tx := some a.missing } } := by
  have hf : (s.onLif (Lif.pass n)).startFault =
      { s with lif := s.lif.haltAfter n, fe := { s.fe with tx := some a.missing } } := by
    rw [State.startFault_eq, State.onLif_fe, htx, State.onLif_lif, Lif.pass_eq_later]
    rfl
  rw [State.quietPassed_of_over h ht, hf, ← Lif.pass_eq_later]
  rfl

/-- A sender that has found no fault yet finds one: its HALT is asked for here (R172, R173). -/
theorem State.faultFound_silent (htx : s.fe.tx = some a) :
    s.faultFound false =
      { s with
        lif := { s.lif with drive := some { symbol := .haltSymbol, left := 480 } }
        fe := { s.fe with tx := some { a with faulted := true } } } := by
  simp only [State.faultFound, Bool.false_eq_true, if_false, State.onLif, State.onFe, htx, Option.map_some, Lif.drives,
    Symbol.length]

theorem State.senderFault_of_unfaulted (htx : s.fe.tx = some a) (hf : a.faulted = false) :
    s.senderFault =
      { s with
        lif := { s.lif with drive := some { symbol := .haltSymbol, left := 480 } }
        fe := { s.fe with tx := some { a with faulted := true } } } := by
  rw [State.senderFault_of_sending (State.sending_of_unfaulted htx hf), State.faultFound_silent htx]

theorem State.sending_of_faulted (h : ∀ a, s.fe.tx = some a → a.faulted = true) : s.sending = none := by
  unfold State.sending
  cases htx : s.fe.tx with
  | none => rfl
  | some a => simp [h a htx]

end

/-! ### The discard -/

/-- The discard of a frame that sends no FOUNDING station back. -/
theorem State.discardFrame_of_kept {s : State} {r : Reception} (h : s.fe.rx = some r)
    (hk : s.tc.state ≠ .founding ∨ r.mark = true) :
    s.discardFrame = { s with fe := { s.fe with rx := none, hold := true } } := by
  rcases hk with hk | hk
  · exact State.discardFrame_of_some h hk
  · unfold State.discardFrame
    rw [h]
    exact if_pos hk

/-- The discard of another station's frame in FOUNDING. -/
theorem State.discardFrame_of_founding {s : State} {r : Reception} (h : s.fe.rx = some r) (hs : s.tc.state = .founding)
    (hm : r.mark = false) (htx : s.fe.tx = none) :
    s.discardFrame =
      { s with
        tc := { s.tc with state := .hailing }
        fe := { s.fe with rx := none, hold := true, hail := some 0, join := none }
        cu := { s.cu with log := [], logging := false } } := by
  unfold State.discardFrame
  rw [h]
  exact (if_neg (by simp [hm])).trans
    (State.foundingAbort_eq (s := s.onFe fun f => { f with rx := none, hold := true }) hs htx)

/-! ### The CLOSE of a frame not accepted (R164) -/

/-- The Line Interface and the Frame Engine at the CLOSE, the frame still in reception. -/
def State.closing (s : State) : State := (s.onLif Lif.closed).onFe Fe.endRoll

theorem State.closing_atClose (s : State) :
    (s.onLif (Lif.pass (140 - s.lif.lasted))).closing.onFe (fun g => { g with rx := none }) = s.atClose :=
  s.close_eq_atClose

section
variable {s : State} {r : Reception}

theorem exec_frameClose (h : s.pins.resetLow = false) (hl : s.lif.line = .busy .frame) (hlow : s.lif.low = false)
    (hrx : s.fe.rx = some r) : exec .frameClose s = .next (s.closeSeen r) := by
  change execFrameClose s = _
  rw [execFrameClose, live_of_high h, hrx]
  exact congrArg Host.Outcome.next (if_pos ⟨hl, hlow⟩)

/-- A CLOSE whose frame is refused, at a station that sends no more after it. -/
theorem State.closeSeen_of_refused {u v : State} (ha : acceptFrame r.bits r.crc = none)
    (hq : s.quietPassed (140 - s.lif.lasted) = u) (hu : (if u.underTest.isSome then u.senderFault else u) = v)
    (hs : v.sending = none) : s.closeSeen r = v.closing.discardFrame := by
  unfold State.closeSeen
  rw [ha, hq]
  simp only [hu]
  exact congrArg State.discardFrame (if_neg (by simp [show (v.closing).sending = none from hs] : ¬ v.closing.sending.isSome))

end

theorem Lif.later_haltAfter {n t : Nat} (h : n ≤ t) (h' : t - n < 480) (l : Lif) :
    (l.haltAfter n).later (t - n) =
      { l.later t with drive := some { symbol := .haltSymbol, left := 480 - (t - n) } } := by
  have e (k : Nat) : k + n + (t - n) = k + t := by omega
  simp only [Lif.haltAfter, Lif.later, e, if_pos h']

/-- The CLOSE with an own HALT under way. -/
theorem State.atClose_halting (s : State) (b : Attempt) (left : Nat) :
    ((({ s with
        lif := { s.lif.later (140 - s.lif.lasted) with drive := some { symbol := .haltSymbol, left := left } }
        fe := { s.fe with tx := some b } } : State).closing).onFe fun f => { f with rx := none, hold := true }) =
      { s.atClose with
        lif := { s.atClose.lif with drive := some { symbol := .haltSymbol, left := left } }
        fe := { s.atClose.fe with hold := true, tx := some b } } := by
  have hlif : ({ s.lif.later (140 - s.lif.lasted) with
      drive := some { symbol := .haltSymbol, left := left } } : Lif).closed =
      { s.atClose.lif with drive := some { symbol := .haltSymbol, left := left } } := by
    have hl : s.atClose.lif = (s.lif.later (140 - s.lif.lasted)).closed := by
      rw [← Lif.pass_eq_later, Lif.pass_closed]
      rfl
    rw [hl]
    rfl
  simp only [State.closing, State.onLif, State.onFe, hlif]
  rfl

/-- Settles O24: refused with nothing sent, refused in FOUNDING, and refused while own bits are left. -/
theorem frameCloseDiscards : Obligations.FrameCloseDiscards := by
  intro s r hr hl hlow hrx hrefused t
  have hex := exec_frameClose hr hl hlow hrx
  have hpassed (hf : ∀ a, s.fe.tx = some a → a.faulted = true) :
      s.closeSeen r = (s.onLif (Lif.pass (140 - s.lif.lasted))).closing.discardFrame := by
    have hu := State.underTest_of_faulted hf
    exact State.closeSeen_of_refused hrefused (State.quietPassed_of_none (State.pulseDue_of_none hu) _)
      (if_neg (by rw [show (s.onLif (Lif.pass (140 - s.lif.lasted))).underTest = none from hu]; simp))
      (State.sending_of_faulted hf)
  refine ⟨fun hf hk => ?_, fun htx hs hm => ?_, fun a x htx hf hm hx => ?_⟩
  · rw [hex, hpassed hf, State.discardFrame_of_kept (s := (s.onLif _).closing) hrx hk]
    exact congrArg (fun u => Host.Outcome.next u.setHold) s.closing_atClose
  · rw [hex, hpassed (by simp [htx]), State.discardFrame_of_founding (s := (s.onLif _).closing) hrx hs hm htx]
    exact congrArg (fun u : State => Host.Outcome.next ({ u with
      tc := { u.tc with state := .hailing }
      fe := { u.fe with hold := true, hail := some 0, join := none }
      cu := { u.cu with log := [], logging := false } } : State)) s.closing_atClose
  · intro halts
    have hcmp : s.compares a (.bit x) := State.compares_bit hrx hx
    have hhalted {b : Attempt} {left : Nat} (hb : b.faulted = true)
        (hv : s.closeSeen r = ({ s with
          lif := { s.lif.later (140 - s.lif.lasted) with drive := some { symbol := .haltSymbol, left := left } }
          fe := { s.fe with tx := some b } } : State).closing.discardFrame) :
        exec .frameClose s = .next (halts b left) := by
      rw [hex, hv]
      refine congrArg Host.Outcome.next (Eq.trans (State.discardFrame_of_kept (r := r) ?_ (.inr hm))
        (s.atClose_halting b left))
      exact hrx
    have hunfaulted (hq : s.quietPassed (140 - s.lif.lasted) = s.onLif (Lif.pass (140 - s.lif.lasted))) :
        exec .frameClose s = .next (halts { a with faulted := true } 480) := by
      let u := s.onLif (Lif.pass (140 - s.lif.lasted))
      have hu : u.underTest = some (.bit x) := State.underTest_of_compares (s := u) htx hf hcmp
      refine hhalted rfl (State.closeSeen_of_refused hrefused hq ?_ (State.sending_of_faulted ?_))
      · rw [if_pos (by simp [u] at hu; simp [hu]), State.senderFault_of_unfaulted (s := u) htx hf, ← Lif.pass_eq_later]
        rfl
      · rintro b ⟨⟩
        rfl
    have hdue (hd : r.bits.length < a.driven) : s.pulseDue = some (s.lif.driveLeft (.bit x)) := by
      refine State.pulseDue_of_drive htx hf hcmp (.inl hl) hlow fun r' hr' => ?_
      rw [hrx] at hr'
      cases hr'
      exact hd
    refine ⟨fun hd => hunfaulted ?_, fun hd left hdrive => ⟨fun ht => ?_, fun ht => hunfaulted ?_⟩⟩
    · refine State.quietPassed_of_none (State.pulseDue_of_unasked htx fun h => ?_) _
      exact absurd (h r hrx) (by omega)
    · have hdue := hdue hd
      rw [Lif.driveLeft_of_drive hdrive] at hdue
      have hq := State.quietPassed_of_runOut htx hdue ht
      rw [Lif.later_haltAfter ht (by omega)] at hq
      have hfaulted : ∀ b, some a.missing = some b → b.faulted = true := by
        rintro b ⟨⟩
        rfl
      refine hhalted rfl (State.closeSeen_of_refused hrefused hq (if_neg ?_) (State.sending_of_faulted hfaulted))
      rw [State.underTest_of_faulted hfaulted]
      simp
    · have hdue := hdue hd
      rw [Lif.driveLeft_of_drive hdrive] at hdue
      exact State.quietPassed_of_driven hdue ht

end Sys2Proof.Machine
end

section
/-! SUPPORT. The bits of a frame: a pulse after a separation, and the sender's drive of its next bit (R147 to R149, R162,
R172). -/

namespace Sys2Proof.Machine

/-! ### The points of a bit -/

theorem Symbol.window_bit (b : Bool) : (Symbol.bit b).window = (if b then (60, 100) else (20, 60)) := by cases b <;> rfl

theorem Symbol.length_bit (b : Bool) : (Symbol.bit b).length = if b then 80 else 40 := by cases b <;> rfl

theorem readPulse_of_bit {len : Nat} {b : Bool} (h : if b then 64 ≤ len ∧ len ≤ 104 else 20 ≤ len ∧ len ≤ 56) :
    readPulse len = .bit b := by
  rw [readPulse_eq_iff]
  cases b <;> exact h

/-! ### A stretch that a sender's drive does not last over -/

section
variable {s : State} {a : Attempt} {x : Symbol}

/-- The own drive runs out before the edge that ends the stretch: the fault is found there. -/
theorem State.stretchPassed_of_runOut {g left : Nat} (hlow : s.lif.low = false) (htx : s.fe.tx = some a)
    (h : s.pulseDue = some left) (ht : left ≤ g - s.lif.lasted) :
    s.stretchPassed g =
      { s with lif := (s.lif.haltAfter left).gapHeard g, fe := { s.fe with tx := some a.missing } } := by
  have hlow' : (s.lif.haltAfter left).low = false := hlow
  have ht' : g - s.lif.lasted - left = g - (s.lif.haltAfter left).lasted := by
    simp only [Lif.haltAfter, Lif.later]
    omega
  unfold State.stretchPassed
  rw [if_neg (by simp [hlow]), State.quietPassed_of_runOut htx h ht, ht']
  unfold Lif.gapHeard
  rw [if_neg (by simp [hlow'])]
  have he : ((s.lif.haltAfter left).later (g - (s.lif.haltAfter left).lasted)).edge true =
      { (s.lif.haltAfter left).later (g - (s.lif.haltAfter left).lasted) with low := true, lasted := 0 } :=
    if_neg (by simp [Lif.later, hlow'])
  exact congrArg (fun l => ({ s with lif := l, fe := { s.fe with tx := some a.missing } } : State)) he

/-- A pulse of a bit that was not asked for is a fault where it begins. -/
theorem State.pulseTested_of_unasked (htx : s.fe.tx = some a) (hf : a.faulted = false) (hx : s.compares a x)
    (ha : ¬ s.askedFor a) (len : Nat) :
    s.pulseTested len =
      { s with lif := s.lif.haltAfter 0, fe := { s.fe with tx := some a.missing } } := by
  have hasked : s.asked = false := Bool.eq_false_iff.2 fun e => ha ((State.asked_iff htx).1 e)
  have hoff : s.startOff = true := by
    unfold State.startOff
    rw [State.underTest_of_compares htx hf hx, hasked]
    rfl
  have h0 : s.lif.haltAfter 0 = { s.lif with drive := some { symbol := .haltSymbol, left := 480 } } := by
    rw [← Lif.pass_drives_halt]
    simp only [Lif.drives, Lif.pass]
    rfl
  rw [State.pulseTested_of_startOff hoff, State.startFault_eq, htx, h0]
  rfl

end

@[simp] theorem Lif.gapHeard_low (g : Nat) (l : Lif) : (l.gapHeard g).low = true := by
  unfold Lif.gapHeard
  split
  · assumption
  · rfl

/-- An edge changes nothing of what a sender compares. -/
theorem State.compares_gapHeard {s : State} {a : Attempt} {x : Symbol} {g : Nat} :
    ({ s with lif := s.lif.gapHeard g } : State).compares a x ↔ s.compares a x := by
  unfold State.compares
  cases s.fe.rx <;> simp

/-- On a dominant line no drive has run out before a pulse. -/
theorem State.not_driveOver_of_low {s : State} {x : Symbol} {t : Nat} (h : s.lif.low = true) : ¬ s.driveOver x t :=
  fun hover => absurd hover.1 (by simp [h])

/-! ### DATA_BIT (R148, R149, R162) -/

section
variable {s : State} {g len : Nat} {b : Bool}

/-- A pulse of bit length after a separation: the stretch passes, the sender tests, and the bit is appended. -/
theorem exec_dataBit {gap pulse : Stretch} (hr : s.pins.resetLow = false) (hl : s.lif.line = .busy .frame)
    (hg : Stretch.seen gap = some g) (hp : Stretch.seen pulse = some len) (h20 : 20 ≤ g) (h60 : g ≤ 60)
    (hb : readPulse len = .bit b) :
    exec (.dataBit gap pulse) s = .next (((s.stretchPassed g).pulsePassed len).bitSeen b) := by
  have hread : s.lif.pulseRead PulseReading.isBit pulse = some len := by
    rw [Lif.pulseRead, Lif.pulseLength_of_seen hp]
    simp [hb, PulseReading.isBit]
  have hdamage : ¬ isGapDamage g = true := by
    rw [isGapDamage_iff]
    omega
  change execDataBit gap pulse s = _
  rw [execDataBit, live_of_high hr, hg, hread]
  unfold State.pulseEnded
  rw [hl]
  dsimp only
  unfold State.frameStretchPulse
  rw [if_neg hdamage, if_pos ((isSeparation_iff g).2 ⟨h20, h60⟩)]
  unfold State.framePulse
  rw [hb]

/-- The bit appended to a reception. -/
theorem State.bitSeen_of_reception {r : Reception} (h : s.fe.rx = some r) :
    s.bitSeen b =
      { s with
        fe := { s.fe with
          rx := some
            { bits := r.bits ++ [b], crc := if inCheckedBytes r.bits then crcBit r.crc b else r.crc, mark := r.mark } } } := by
  simp only [State.bitSeen, State.onFe, h, Option.map_some]
  rfl

/-- What the pulse's tests leave, with the bit appended. -/
theorem exec_dataBit_of {gap pulse : Stretch} {u : State} {r : Reception} (hr : s.pins.resetLow = false)
    (hl : s.lif.line = .busy .frame) (hg : Stretch.seen gap = some g) (hp : Stretch.seen pulse = some len) (h20 : 20 ≤ g)
    (h60 : g ≤ 60) (hb : readPulse len = .bit b) (hu : (s.stretchPassed g).pulsePassed len = u) (hrx : u.fe.rx = some r) :
    exec (.dataBit gap pulse) s =
      .next { u with
        fe := { u.fe with
          rx := some
            { bits := r.bits ++ [b], crc := if inCheckedBytes r.bits then crcBit r.crc b else r.crc, mark := r.mark } } } := by
  rw [exec_dataBit hr hl hg hp h20 h60 hb, hu, State.bitSeen_of_reception hrx]

end

/-! ### BIT_DRIVE (R144, R147) -/

theorem exec_bitDrive {s : State} {b : Bool} (hr : s.pins.resetLow = false) (hu : s.underTest = some (.bit b)) :
    exec .bitDrive s =
      .next (if s.bitDue then
        (s.onFe Fe.askBit).onLif fun l => (if l.low then l else l.lastingTo 40).drives (.bit b) else s) := by
  change execBitDrive s = _
  rw [execBitDrive, live_of_high hr, hu]

/-- Settles O23: the bit of a pulse that passes, of one that comes too late, of one not asked for, and the drive of a bit. -/
theorem bitsAreReceivedAndDriven : Obligations.BitsAreReceivedAndDriven := by
  intro s r hr hl hrx
  have hasked {a : Attempt} : s.askedFor a ↔ r.bits.length < a.driven := by
    simp [State.askedFor, hrx]
  refine ⟨fun gap pulse g len b hg hp h20 h60 hlen => ?_, fun a b htx hf hb => ⟨fun hd ht => ?_, fun hd => ?_⟩⟩
  · intro read
    have hbit := readPulse_of_bit hlen
    have hex {u : State} (hu : (s.stretchPassed g).pulsePassed len = u) (hurx : u.fe.rx = some r) :=
      exec_dataBit_of hr hl hg hp h20 h60 hbit hu hurx
    refine ⟨fun hown => ?_, fun a x htx hf hx => ?_⟩
    · have hown' : ∀ a x, s.fe.tx = some a → a.faulted = false → s.compares a x →
          s.startsWithin a x (g - s.lif.lasted) ∧ x = .bit b ∧ len ≤ 100 := by
        intro a x htx hf hx
        unfold State.compares at hx
        rw [hrx] at hx
        obtain ⟨c, hc, rfl⟩ := hx
        obtain ⟨h1, rfl, h3⟩ := hown a c htx hf hc
        exact ⟨h1, rfl, h3⟩
      have hstretch : s.stretchPassed g = { s with lif := s.lif.gapHeard g } :=
        State.stretchPassed_of_forall fun a x htx hf hx hrun => (hown' a x htx hf hx).1.2 hrun.2.2
      have htested : ({ s with lif := s.lif.gapHeard g } : State).pulseTested len = { s with lif := s.lif.gapHeard g } := by
        refine State.pulseTested_of_forall fun a x htx hf hx => ?_
        obtain ⟨⟨ha, -⟩, rfl, h100⟩ := hown' a x htx hf (State.compares_gapHeard.1 hx)
        refine ⟨⟨ha, State.not_driveOver_of_low (Lif.gapHeard_low g s.lif)⟩, ?_⟩
        rw [Symbol.window_bit]
        cases b with
        | false => exact ⟨hlen.1, le_trans hlen.2 (by simp)⟩
        | true => exact ⟨le_trans (by simp) hlen.1, h100⟩
      exact hex ((congrArg (State.pulsePassed len) hstretch).trans (State.pulsePassed_of_tested htested)) hrx
    · intro missed
      have hcmp : s.compares a (.bit x) := State.compares_bit hrx hx
      refine ⟨fun hd hlow left hdrive ht => ?_, fun hd => ?_⟩
      · have hdue := State.pulseDue_of_drive htx hf hcmp (.inl hl) hlow (hasked.2 hd)
        rw [Lif.driveLeft_of_drive hdrive] at hdue
        have hstretch := State.stretchPassed_of_runOut hlow htx hdue ht
        have hfaulted : ∀ b, some a.missing = some b → b.faulted = true := by
          rintro b ⟨⟩
          rfl
        have hpassed := State.pulsePassed_of_tested
          (State.pulseTested_of_none (State.underTest_of_faulted (s := { s with
            lif := (s.lif.haltAfter left).gapHeard g, fe := { s.fe with tx := some a.missing } }) hfaulted) len)
        exact hex ((congrArg (State.pulsePassed len) hstretch).trans hpassed) hrx
      · have hunasked : ¬ s.askedFor a := fun h => absurd (hasked.1 h) (by omega)
        have hstretch : s.stretchPassed g = { s with lif := s.lif.gapHeard g } :=
          State.stretchPassed_eq_gapHeard (State.quietPassed_of_none (State.pulseDue_of_unasked htx hunasked) _)
        have htested := State.pulseTested_of_unasked (s := { s with lif := s.lif.gapHeard g }) htx hf
          (State.compares_gapHeard.2 hcmp) hunasked len
        refine hex (u := { s with
          lif := ((s.lif.gapHeard g).haltAfter 0).heard len, fe := { s.fe with tx := some a.missing } }) ?_ hrx
        rw [hstretch, State.pulsePassed, htested, ← Lif.pulse_eq_heard]
        rfl
  · have hu : s.underTest = some (.bit b) := State.underTest_of_compares htx hf (State.compares_bit hrx hb)
    have hdue : s.bitDue = true := by
      have hlasted : (if s.lif.low then decide (s.lif.lasted < 40) else decide (s.lif.lasted ≤ 40)) = true := by
        cases hlow : s.lif.low <;> simpa [hlow] using ht
      simp only [State.bitDue, hl, htx, hrx, Option.any_some, hd, hlasted]
      decide
    rw [exec_bitDrive hr hu, if_pos hdue]
    have hlif : (if s.lif.low then s.lif else s.lif.lastingTo 40).drives (.bit b) =
        { s.lif.later (if s.lif.low then 0 else 40 - s.lif.lasted) with
          drive := some { symbol := .bit b, left := if b then 80 else 40 } } := by
      rw [← Symbol.length_bit]
      cases s.lif.low with
      | true => rfl
      | false => exact congrArg (Lif.drives (.bit b)) (Lif.pass_eq_later _ _)
    have hfe : s.fe.askBit = { s.fe with tx := some { a with driven := r.bits.length + 1 } } := by
      simp only [Fe.askBit, htx, hrx, Option.map_some, Option.elim_some]
    exact congrArg₂ (fun l f => Host.Outcome.next ({ s with lif := l, fe := f } : State)) hlif hfe
  · have hu : s.underTest = some (.bit b) := State.underTest_of_compares htx hf (State.compares_bit hrx hb)
    have hdue : ¬ s.bitDue = true := by
      simp [State.bitDue, hl, htx, hrx, hd]
    rw [exec_bitDrive hr hu, if_neg hdue]

end Sys2Proof.Machine
end

section
/-! SUPPORT. The wait-probe timer and the copy timer under the ends of the line's counts: no such end brings either of them to
its limit (R42, R49, R92, R154 to R156). -/

namespace Sys2Proof.Machine

/-- From `s` to `t` the wait limit stays, and each of the two timers stays, stops, or starts again from zero, the wait-probe
timer only with a limit that is not 0. -/
structure State.Calm (s t : State) : Prop where
  limit : t.hp.waitLimit = s.hp.waitLimit
  wait : t.tc.waitTimer = s.tc.waitTimer ∨ t.tc.waitTimer = none ∨ (t.tc.waitTimer = some 0 ∧ s.hp.waitLimit ≠ 0)
  copy : t.cu.copyTimer = s.cu.copyTimer ∨ t.cu.copyTimer = none ∨ t.cu.copyTimer = some 0

theorem State.Calm.of_eq {s t : State} (h1 : t.hp.waitLimit = s.hp.waitLimit) (h2 : t.tc.waitTimer = s.tc.waitTimer)
    (h3 : t.cu.copyTimer = s.cu.copyTimer) : s.Calm t := ⟨h1, .inl h2, .inl h3⟩

theorem State.Calm.refl (s : State) : s.Calm s := .of_eq rfl rfl rfl

theorem State.Calm.trans {s t u : State} (h : s.Calm t) (k : t.Calm u) : s.Calm u := by
  refine ⟨k.limit.trans h.limit, ?_, ?_⟩
  · rcases k.wait with e | e | ⟨e, hl⟩
    · rw [e]
      exact h.wait
    · exact .inr (.inl e)
    · exact .inr (.inr ⟨e, by rwa [h.limit] at hl⟩)
  · rcases k.copy with e | e | e
    · rw [e]
      exact h.copy
    · exact .inr (.inl e)
    · exact .inr (.inr e)

theorem State.Calm.ite {s t u : State} (p : Prop) [Decidable p] (h : p → s.Calm t) (k : ¬p → s.Calm u) :
    s.Calm (if p then t else u) := by
  split
  · exact h ‹_›
  · exact k ‹_›

/-- Neither timer is at its limit after a calm change, when it was not before. -/
theorem State.Calm.waitDue {s t : State} (h : s.Calm t) (hs : s.waitDue = false) : t.waitDue = false := by
  have hq : t.waitQuanta = s.waitQuanta := by unfold State.waitQuanta; rw [h.limit]
  unfold State.waitDue at *
  rw [hq]
  rcases h.wait with e | e | ⟨e, hl⟩
  · rwa [e]
  · rw [e]
    rfl
  · rw [e]
    have h0 : s.hp.waitLimit.toNat ≠ 0 := fun h => hl (BitVec.eq_of_toNat_eq h)
    refine decide_eq_false ?_
    unfold State.waitQuanta
    omega

theorem State.Calm.copyDue {s t : State} (h : s.Calm t) (hs : s.copyDue = false) : t.copyDue = false := by
  unfold State.copyDue at *
  rcases h.copy with e | e | e
  · rwa [e]
  · rw [e]
    rfl
  · rw [e]
    rfl

/-! ### Shared operations -/

theorem State.calm_onLif (f : Lif → Lif) (s : State) : s.Calm (s.onLif f) := .of_eq rfl rfl rfl
theorem State.calm_onFe (f : Fe → Fe) (s : State) : s.Calm (s.onFe f) := .of_eq rfl rfl rfl
theorem State.calm_onRu (f : Ru → Ru) (s : State) : s.Calm (s.onRu f) := .of_eq rfl rfl rfl
theorem State.calm_onCu {f : Cu → Cu} {s : State} (h : (f s.cu).copyTimer = s.cu.copyTimer) : s.Calm (s.onCu f) :=
  .of_eq rfl rfl h

theorem State.calm_posts (ns : List Notice) (n : Nat) (s : State) : s.Calm { s with hp := s.hp.posts ns, freeUsed := n } :=
  .of_eq (Hp.posts_waitLimit _ _) rfl rfl

theorem State.calm_post (n : Notice) (s : State) : s.Calm (s.post n) := s.calm_posts [n] s.freeUsed

theorem State.calm_postAll (ns : List Notice) (s : State) : s.Calm (s.postAll ns) := by
  rw [State.postAll_eq]
  exact s.calm_posts ns s.freeUsed

theorem State.calm_postEither (xs ys : List Notice) (s : State) : s.Calm (s.postEither xs ys) := by
  rw [State.postEither_eq]
  exact s.calm_posts _ _

theorem State.waitLimit_of_waitCond {s : State} (h : s.waitCond = true) : s.hp.waitLimit ≠ 0 := by
  simp only [State.waitCond, Bool.and_eq_true, bne_iff_ne] at h
  exact h.1.2

theorem State.calm_restartWait (s : State) : s.Calm s.restartWait := by
  refine ⟨rfl, ?_, .inl rfl⟩
  rw [State.restartWait_eq]
  dsimp only
  split
  · exact .inr (.inr ⟨rfl, State.waitLimit_of_waitCond ‹_›⟩)
  · exact .inr (.inl rfl)

theorem State.calm_syncWait (before : Bool) (s : State) : s.Calm (s.syncWait before) := by
  refine ⟨rfl, ?_, .inl rfl⟩
  rw [State.syncWait_eq]
  dsimp only
  split
  · split
    · exact .inl rfl
    · exact .inr (.inr ⟨rfl, State.waitLimit_of_waitCond ‹_›⟩)
  · exact .inr (.inl rfl)

theorem State.calm_enterHailing (s : State) : s.Calm s.enterHailing := .of_eq rfl rfl rfl

theorem State.calm_foundingAbort (s : State) : s.Calm s.foundingAbort :=
  .ite _ (fun _ => s.calm_enterHailing) fun _ => .refl s

theorem State.calm_cancelRequests (why : Reason) (s : State) : s.Calm (s.cancelRequests why) := by
  rw [State.cancelRequests_eq]
  exact .of_eq (Hp.posts_waitLimit _ _) rfl rfl

/-! ### The closure (R42 to R45) -/

theorem State.calm_lagEvent (r : LagReason) (s : State) : s.Calm (s.lagEvent r) := by
  obtain ⟨htc, -, hcu, -, -, hhp, -⟩ := s.lagEvent_spec r
  refine ⟨?_, .inr (.inl ?_), .inr (.inl ?_)⟩
  · rw [hhp, Hp.posts_waitLimit]
  · rw [htc]
  · rw [hcu]
    rfl

theorem State.calm_duplicateLag (s : State) : s.Calm s.duplicateLag := (s.calm_post _).trans (State.calm_lagEvent _ _)

theorem State.calm_ruReport (turn : Turn) (c : EditCause) (e : EditResult) (s : State) :
    s.Calm (s.ruReport turn c e).1 := by
  unfold State.ruReport
  split
  · exact (s.calm_onRu _).trans (State.calm_syncWait _ _)
  · exact .refl s

theorem State.calm_evict (e : StationSet) (turn : Turn) (s : State) : s.Calm (s.evict e turn).1 := by
  unfold State.evict
  generalize s.ztu.remove s.tc.roster e s.self = r
  have h1 : s.Calm (s.setTable r) := .of_eq rfl rfl rfl
  exact (h1.trans (State.calm_ruReport _ _ _ _)).trans (State.calm_postEither _ _ _)

theorem State.calm_closureEffects (c : ClosureRecord) (s : State) : s.Calm (s.closureEffects c) := by
  have h1 : s.Calm (s.recordClosed c) := .of_eq rfl rfl rfl
  by_cases h : s.tc.state = .leaving ∧ c.own = true
  · rw [State.closureEffects_of_leave h.1 h.2]
    have h2 : (s.recordClosed c).Calm ((s.recordClosed c).leaveGroup c.turn) :=
      ⟨Hp.post_waitLimit _ _, .inl rfl, .inr (.inl rfl)⟩
    exact (h1.trans h2).trans (State.calm_restartWait _)
  · rw [State.closureEffects_of_stay h]
    exact h1.trans (State.calm_restartWait _)

theorem State.calm_closeRecord (c : ClosureRecord) (s : State) : s.Calm (s.closeRecord c) := by
  unfold State.closeRecord
  split
  · exact s.calm_lagEvent _
  · rename_i e _
    have hx : s.Calm (if e = 0 then (s, false) else s.evict e c.turn).1 := by
      split
      · exact .refl s
      · exact s.calm_evict e c.turn
    dsimp only
    exact .ite _ (fun _ => (hx.trans (State.calm_closureEffects c _)).trans (State.calm_duplicateLag _)) fun _ =>
      hx.trans (State.calm_closureEffects c _)

theorem State.calm_takeClosure (s : State) : s.Calm s.takeClosure := by
  unfold State.takeClosure
  split
  · exact .ite _ (fun _ => .refl s) fun _ => s.calm_closeRecord _
  · exact .refl s

/-! ### Rolls (R40, R55, R56, R79, R87) -/

theorem State.calm_orderRoll (roll : Roll) (s : State) : s.Calm (s.orderRoll roll) := by
  unfold State.orderRoll
  split
  · exact .refl s
  · rename_i c _
    have h1 : s.Calm (s.onTc fun t => { t with closure := some { c with lastRoll := some roll } }) := .of_eq rfl rfl rfl
    exact .ite _ (fun _ => .refl s) fun _ => .ite _ (fun _ => h1.trans (State.calm_takeClosure _)) fun _ =>
      .ite _ (fun _ => h1.trans (State.calm_onFe _ _)) fun _ => h1

theorem State.calm_startStream (s : State) : s.Calm s.startStream :=
  .ite _ (fun _ => .of_eq rfl rfl rfl) fun _ => .refl s

theorem State.calm_abandonStream (s : State) : s.Calm s.abandonStream := .of_eq rfl rfl rfl

theorem State.calm_takeHailer (h : Station) (s : State) : s.Calm (s.takeHailer h) := by
  have h1 : s.Calm (s.onCu (Cu.hailed h)) := .of_eq rfl rfl rfl
  by_cases he : s.cu.streamSet = StationSet.one h
  · rw [State.takeHailer_of_alone he]
    exact (h1.trans (State.calm_abandonStream _)).trans (State.calm_startStream _)
  · rw [State.takeHailer_of_others he]
    exact h1.trans (State.calm_startStream _)

theorem State.calm_selectSource (h : Station) (roll : Roll) (s : State) : s.Calm (s.selectSource h roll) := by
  cases roll with
  | unreadable => exact .refl s
  | readable set => exact .ite _ (fun _ => s.calm_takeHailer h) fun _ => .refl s

theorem State.calm_completeStream (s : State) : s.Calm s.completeStream :=
  (State.calm_onCu (s := s) rfl).trans (State.calm_startStream _)

theorem State.calm_nextPart (i : Nat) (s : State) : s.Calm (s.nextPart i) := .of_eq rfl rfl rfl

theorem State.calm_copyFrameDone (s : State) : s.Calm s.copyFrameDone := by
  unfold State.copyFrameDone
  refine .ite _ (fun _ => s.calm_abandonStream.trans (State.calm_startStream _)) fun _ => ?_
  split
  · exact .refl s
  · exact .ite _ (fun _ => s.calm_completeStream) fun _ => s.calm_nextPart _
  · exact .ite _ (fun _ => s.calm_nextPart _) fun _ => s.calm_completeStream

theorem State.calm_copyRoll (roll : Roll) (s : State) : s.Calm (s.copyRoll roll) :=
  .ite _ (fun _ => .refl s) fun _ => .ite _ (fun _ => s.calm_copyFrameDone) fun _ =>
    .ite _ (fun _ => (State.calm_onCu (s := s) rfl).trans (State.calm_copyFrameDone _)) fun _ => .of_eq rfl rfl rfl

theorem State.calm_hailAnswer (roll : Roll) (s : State) : s.Calm (s.hailAnswer roll) := by
  unfold State.hailAnswer
  refine .ite _ (fun _ => .refl s) fun _ => ?_
  split
  · exact s.calm_enterHailing
  · split
    · exact .of_eq rfl rfl rfl
    · exact ⟨rfl, .inl rfl, .inr (.inr rfl)⟩

theorem State.calm_handRoll (roll : Roll) (s : State) : s.Calm (s.handRoll roll) := by
  rw [State.handRoll_eq]
  refine (s.calm_onFe Fe.endRoll).trans ?_
  cases s.fe.rollUse with
  | none => exact .refl _
  | order => exact State.calm_orderRoll _ _
  | log repNo => exact State.calm_onCu rfl
  | ownHail => exact State.calm_hailAnswer _ _
  | hail hailer => exact State.calm_selectSource _ _ _
  | ownCopy => exact State.calm_copyRoll _ _

theorem State.calm_cutRoll (s : State) : s.Calm s.cutRoll := .ite _ (fun _ => s.calm_handRoll _) fun _ => .refl s

/-! ### Discards, attempts and the sender's tests (R164, R171 to R174) -/

theorem State.calm_discardFrame (s : State) : s.Calm s.discardFrame := by
  unfold State.discardFrame
  split
  · exact .refl s
  · exact .ite _ (fun _ => s.calm_onFe _) fun _ => (s.calm_onFe _).trans (State.calm_foundingAbort _)

theorem State.calm_abandonJoin (k : FrameKind) (s : State) : s.Calm (s.abandonJoin k) := by
  have h1 : s.Calm (((s.discardTable.setState .offline).onFe fun f =>
      ((f.withdraw .hail).withdraw .join).withdraw .rept).onCu Cu.stopLog) := .of_eq rfl rfl rfl
  exact (h1.trans (State.calm_cancelRequests _ _)).trans (State.calm_post _ _)

theorem State.calm_joinTry (k : FrameKind) (s : State) : s.Calm (s.joinTry k) := by
  unfold State.joinTry
  split
  all_goals
    split
    · exact .refl s
    · exact .ite _ (fun _ => s.calm_abandonJoin _) fun _ => s.calm_onFe _

theorem State.calm_copyTry (s : State) : s.Calm s.copyTry := by
  unfold State.copyTry
  split
  · exact .refl s
  · exact .ite _ (fun _ => s.calm_abandonStream.trans (State.calm_startStream _)) fun _ => s.calm_onFe _

theorem State.calm_reportTry (src : Source) (s : State) : s.Calm (s.reportTry src) := by
  cases src with
  | rept => exact s.calm_onFe _
  | join => exact s.calm_joinTry .join
  | hail => exact s.calm_joinTry .hail
  | copy => exact s.calm_copyTry
  | request => exact (s.calm_onRu _).trans (State.calm_postAll _ _)
  | touch =>
    have h2 := (s.calm_onRu fun _ => s.ru.touchTry.1).trans (State.calm_postAll s.ru.touchTry.2 _)
    exact .ite _ (fun _ => h2) fun _ => h2.trans (State.calm_restartWait _)

theorem State.calm_attemptFailed (s : State) : s.Calm s.attemptFailed := by
  unfold State.attemptFailed
  split
  · exact .refl s
  · exact .ite _ (fun _ => s.calm_onFe _) fun _ => (s.calm_onFe _).trans (State.calm_reportTry _ _)

theorem State.calm_lineIdle (s : State) : s.Calm s.lineIdle := by
  have h1 : s.Calm s.endFaulted := .ite _ (fun _ => s.calm_attemptFailed) fun _ => .refl s
  exact (h1.trans (State.calm_onLif _ _)).trans (State.calm_onFe _ _)

theorem State.calm_loseArbitration (s : State) : s.Calm s.loseArbitration := .of_eq rfl rfl rfl

theorem State.calm_faultFound (duplicate : Bool) (s : State) : s.Calm (s.faultFound duplicate) := by
  refine .trans ?_ ((State.calm_onFe _ _).trans (State.calm_onLif _ _))
  exact .ite _ (fun _ => s.calm_post _) fun _ => .refl s

theorem State.calm_startFault (s : State) : s.Calm s.startFault := (s.calm_onFe _).trans (State.calm_faultFound _ _)

theorem State.calm_testFailed (x : Symbol) (late : Bool) (s : State) : s.Calm (s.testFailed x late) :=
  .ite _ (fun _ => s.calm_loseArbitration) fun _ => s.calm_faultFound _

theorem State.calm_pulseTested (len : Nat) (s : State) : s.Calm (s.pulseTested len) := by
  unfold State.pulseTested
  split
  · exact .refl s
  · exact .ite _ (fun _ => s.calm_startFault) fun _ =>
      .ite _ (fun _ => (s.calm_onLif _).trans (State.calm_testFailed _ _ _)) fun _ =>
        .ite _ (fun _ => (s.calm_onLif _).trans (State.calm_testFailed _ _ _)) fun _ => .refl s

theorem State.calm_leaveIdle (s : State) : s.Calm s.leaveIdle := .ite _ (fun _ => .of_eq rfl rfl rfl) fun _ => .refl s

/-! ### What the line's counts bring about -/

theorem State.calm_stuckSeen (s : State) : s.Calm s.stuckSeen := by
  have h1 := (s.calm_leaveIdle.trans (State.calm_pulseTested 1600 _)).trans
    (State.calm_onLif (fun l => { l.dominantFor 1600 with drive := none }) _)
  have h2 := ((h1.trans (State.calm_attemptFailed _)).trans (State.calm_discardFrame _)).trans (State.calm_cutRoll _)
  exact (h2.trans (State.calm_post _ _)).trans (State.calm_onLif (fun l => { l with line := .stuck }) _)

theorem State.calm_quietSynced (s : State) : s.Calm s.quietSynced := (s.calm_onLif _).trans (State.calm_lineIdle _)

theorem State.calm_stuckCleared (s : State) : s.Calm s.stuckCleared :=
  (((s.calm_onLif _).trans (State.calm_post _ _)).trans (State.calm_onFe _ _)).trans (State.calm_lineIdle _)

theorem State.calm_yieldLapsed (s : State) : s.Calm s.yieldLapsed :=
  (s.calm_takeClosure.trans (State.calm_onCu rfl)).trans (State.calm_onFe _ _)

theorem State.calm_fireLine (s : State) : s.Calm s.fireLine := by
  unfold State.fireLine
  refine .ite _ (fun _ => .ite _ (fun _ => s.calm_stuckSeen) fun _ => ?_) fun _ => .refl s
  split
  · exact s.calm_yieldLapsed
  · exact s.calm_quietSynced
  · exact s.calm_stuckCleared
  · exact .refl s

/-! ### One quantum without a command -/

theorem exec_waitProbeRunOut {s : State} (hr : s.pins.resetLow = false) (hw : s.tc.waitTimer ≠ none) :
    exec .waitProbeRunOut s = .next s.waitRunOut := by
  change execWaitProbeRunOut s = _
  rw [execWaitProbeRunOut, live_of_high hr, if_pos (Option.isSome_iff_ne_none.2 hw)]

theorem exec_copyTimerExpiry {s : State} (hr : s.pins.resetLow = false) (hc : s.cu.copyTimer ≠ none) :
    exec .copyTimerExpiry s = .next (s.copyFailure .timeout) := by
  change execCopyTimerExpiry s = _
  rw [execCopyTimerExpiry, live_of_high hr, if_pos (Option.isSome_iff_ne_none.2 hc)]

theorem exec_lineStuck {s : State} (hr : s.pins.resetLow = false) (hl : s.lif.line ≠ .stuck) :
    exec .lineStuck s = .next s.stuckSeen := by
  change execLineStuck s = _
  rw [execLineStuck, live_of_high hr, if_neg hl]

theorem exec_syncQuiet {s : State} (hr : s.pins.resetLow = false) (hl : s.lif.line = .unsynced) (hlow : s.lif.low = false) :
    exec .syncQuiet s = .next s.quietSynced := by
  change execSyncQuiet s = _
  rw [execSyncQuiet, live_of_high hr, if_pos ⟨hl, hlow⟩]

theorem exec_lineClear {s : State} (hr : s.pins.resetLow = false) (hl : s.lif.line = .stuck) :
    exec .lineClear s = .next s.stuckCleared := by
  change execLineClear s = _
  rw [execLineClear, live_of_high hr, if_pos hl]

section
variable {s : State}

theorem State.fireTimer_of_neither (hw : s.waitDue = false) (hc : s.copyDue = false) : s.fireTimer = s := by
  unfold State.fireTimer
  rw [hw, hc]
  rfl

theorem State.waitDue_iff :
    s.waitDue = true ↔ ∃ n, s.tc.waitTimer = some n ∧ s.hp.waitLimit.toNat * 4096 ≤ n := by
  unfold State.waitDue State.waitQuanta
  simp only [Option.any_eq_true, decide_eq_true_eq]

theorem State.copyDue_iff : s.copyDue = true ↔ ∃ n, s.cu.copyTimer = some n ∧ 4096 ≤ n := by
  unfold State.copyDue copyQuanta
  simp only [Option.any_eq_true, decide_eq_true_eq]

/-- A count that has gone on by one reaches a limit. -/
theorem exists_map_succ_iff {o : Option Nat} {limit : Nat} :
    (∃ n, o.map (· + 1) = some n ∧ limit ≤ n) ↔ ∃ n, o = some n ∧ limit ≤ n + 1 := by
  cases o <;> simp

/-- A quantum in which no timer comes to its limit. -/
theorem State.tick_of_line (hr : s.pins.resetLow = false) (hw : s.countQuantum.waitDue = false)
    (hc : s.countQuantum.copyDue = false) : s.tick = s.countQuantum.fireLine := by
  have hcalm := s.countQuantum.calm_fireLine
  unfold State.tick
  rw [if_neg (by simp [hr])]
  simp only [hw, hc, Bool.or_false, Bool.and_false, Bool.false_eq_true, if_false]
  exact State.fireTimer_of_neither (hcalm.waitDue hw) (hcalm.copyDue hc)

/-- A quantum in which no count of the line comes to its end. -/
theorem State.tick_of_timer (hr : s.pins.resetLow = false) (hl : s.countQuantum.lineDue = false) :
    s.tick = s.countQuantum.fireTimer := by
  have hf : s.countQuantum.fireLine = s.countQuantum := by
    unfold State.fireLine
    rw [hl]
    rfl
  unfold State.tick
  rw [if_neg (by simp [hr])]
  simp only [hl, Bool.false_and, Bool.false_eq_true, if_false, hf]

theorem State.lineDue_iff :
    s.lineDue = true ↔
      (s.lif.low = true ∧ s.lif.line ≠ .stuck ∧ 1600 ≤ s.lif.lasted) ∨
      (s.lif.low = false ∧
        ((s.lif.line = .idle ∧ s.fe.hold = true ∧ ∃ n, s.fe.yieldTimer = some n ∧ 6 ≤ n) ∨
          ((s.lif.line = .unsynced ∨ s.lif.line = .stuck) ∧ 1920 ≤ s.lif.lasted))) := by
  unfold State.lineDue stuckLength quietLength yieldQuanta
  cases s.lif.low with
  | true => simp
  | false => rcases s.lif.line with _ | _ | _ | _ <;> simp [Option.any_eq_true]

theorem State.fireLine_of_stuck (hd : s.lineDue = true) (hlow : s.lif.low = true) : s.fireLine = s.stuckSeen := by
  unfold State.fireLine
  rw [if_pos hd, if_pos hlow]

theorem State.fireLine_of_recessive (hd : s.lineDue = true) (hlow : s.lif.low = false) :
    s.fireLine =
      (match s.lif.line with
        | .idle => s.yieldLapsed
        | .unsynced => s.quietSynced
        | .stuck => s.stuckCleared
        | _ => s) := by
  unfold State.fireLine
  rw [if_pos hd, if_neg (by simp [hlow])] <;> rfl

end

/-- A copy failure in a state with the frames, the Request Unit and the notices of `s` (R97). -/
theorem State.restartsTo_copyFailure {s u : State} {before : List Notice} (why : CopyReason) (htx : s.fe.tx = none)
    (hfe : u.fe = s.fe) (hru : u.ru = s.ru) (hhp : u.hp = s.hp.posts before) (haw : u.cu.awaited = s.cu.awaited)
    (hcu : u.cu.clearRequester = s.cu.clearRequester) (hwait : u.tc.waitTimer = s.tc.waitTimer) (hlif : u.lif = s.lif)
    (hpins : u.pins = s.pins) : s.restartsTo before why (u.copyFailure why) := by
  let v : State :=
    ((u.post (copyRestartNotice u.cu.awaited why)).onCu Cu.clearRequester).discardTable
  have htx' : v.fe.tx = none := by rw [← htx, ← hfe]; rfl
  have hv : u.copyFailure why = v.enterHailing := rfl
  rw [hv, State.enterHailing_of_tx_none htx']
  refine ⟨?_, ?_, fun z => Ztu.zone_reset z, rfl, ?_, ?_, hru, hlif, hpins⟩
  · rw [Hp.posts_append, ← hhp, ← haw]
    rfl
  · exact congrArg (fun c : Cu => { c with log := [], logging := false }) hcu
  · exact congrArg (fun w : Option Nat =>
      ({ state := .hailing, turn := 0, lastApplied := none, roster := 0, closure := none, waitTimer := w } : Tc)) hwait
  · exact congrArg (fun f : Fe => { f with hail := some 0, join := none }) hfe

/-- Settles O41: the two timer commands, and the limits of a quantum. -/
theorem timersExpire : Obligations.TimersExpire := by
  refine ⟨fun s hr hw => exec_waitProbeRunOut hr hw, fun s hr hc htx => ⟨_, exec_copyTimerExpiry hr hc, ?_⟩,
    fun s hr hp hrun => ?_⟩
  · exact State.restartsTo_copyFailure .timeout htx rfl rfl (Hp.posts_nil _).symm rfl rfl rfl rfl rfl
  · intro counted waitEnds copyEnds stuckEnds quietEnds yieldEnds
    have hstep : step s = .next s.tick := stepCarriesOutTheFrontCommand.2 s hp
    have hcount : s.countQuantum = counted := by
      have hq := State.quietPassed_of_forall hrun
      rw [show Lif.pass 40 = Lif.later 40 from funext (Lif.pass_eq_later 40)] at hq
      unfold State.countQuantum
      rw [hq]
      rfl
    have hwait : counted.waitDue = true ↔ waitEnds := State.waitDue_iff.trans exists_map_succ_iff
    have hcopy : counted.copyDue = true ↔ copyEnds := State.copyDue_iff.trans exists_map_succ_iff
    have hline : counted.lineDue = true ↔ stuckEnds ∨ quietEnds .unsynced ∨ quietEnds .stuck ∨ yieldEnds := by
      refine State.lineDue_iff.trans (or_congr Iff.rfl ?_)
      have hy := exists_map_succ_iff (o := s.fe.yieldTimer) (limit := 6)
      constructor
      · rintro ⟨hlow, ⟨hl, hh, hn⟩ | ⟨hl | hl, hn⟩⟩
        · exact .inr (.inr ⟨hlow, hl, hh, hy.1 hn⟩)
        · exact .inl ⟨hlow, hl, hn⟩
        · exact .inr (.inl ⟨hlow, hl, hn⟩)
      · rintro (⟨hlow, hl, hn⟩ | ⟨hlow, hl, hn⟩ | ⟨hlow, hl, hh, hn⟩)
        · exact ⟨hlow, .inr ⟨.inl hl, hn⟩⟩
        · exact ⟨hlow, .inr ⟨.inr hl, hn⟩⟩
        · exact ⟨hlow, .inl ⟨hl, hh, hy.2 hn⟩⟩
    have hcr : counted.pins.resetLow = false := hr
    have hstuck (h : stuckEnds) : counted.lif.low = true ∧ counted.lif.line ≠ .stuck := ⟨h.1, h.2.1⟩
    have hquiet {line : LineState} (h : quietEnds line) : counted.lif.low = false ∧ counted.lif.line = line :=
      ⟨h.1, h.2.1⟩
    have hyield (h : yieldEnds) : counted.lif.low = false ∧ counted.lif.line = .idle ∧ counted.fe.hold = true ∧
        counted.fe.yieldTimer ≠ none := by
      obtain ⟨hlow, hl, hh, n, hn, -⟩ := h
      exact ⟨hlow, hl, hh, by simp [counted, hn]⟩
    have hwaits (h : waitEnds) : counted.tc.waitTimer ≠ none := by
      obtain ⟨n, hn, -⟩ := h
      simp [counted, hn]
    have hcopies (h : copyEnds) : counted.cu.copyTimer ≠ none := by
      obtain ⟨n, hn, -⟩ := h
      simp [counted, hn]
    clear_value counted waitEnds copyEnds stuckEnds yieldEnds quietEnds
    rw [hstep]
    refine ⟨fun h1 h2 h3 h4 => ?_, fun hw hc => ?_⟩
    · have hnone : s.countQuantum.lineDue = false := by
        rw [hcount, Bool.eq_false_iff, Ne, hline]
        rintro (h | h | h | h)
        · exact h1 h
        · exact h2 h
        · exact h3 h
        · exact h4 h
      rw [State.tick_of_timer hr hnone, hcount]
      refine ⟨fun hw hc => ?_, fun hw hc => ?_, fun hc hw => ?_⟩
      · rw [State.fireTimer_of_neither (Bool.eq_false_iff.2 (hwait.not.2 hw)) (Bool.eq_false_iff.2 (hcopy.not.2 hc))]
      · rw [exec_waitProbeRunOut hcr (hwaits hw), State.fireTimer, if_pos (hwait.2 hw)]
      · rw [exec_copyTimerExpiry hcr (hcopies hc), State.fireTimer, if_neg (hwait.not.2 hw), if_pos (hcopy.2 hc)]
    · rw [State.tick_of_line hr (by rw [hcount]; exact Bool.eq_false_iff.2 (hwait.not.2 hw))
        (by rw [hcount]; exact Bool.eq_false_iff.2 (hcopy.not.2 hc)), hcount]
      refine ⟨fun h => ?_, fun h => ?_, fun h => ?_, fun h => ?_⟩
      · obtain ⟨hlow, hl⟩ := hstuck h
        rw [exec_lineStuck hcr hl, State.fireLine_of_stuck (hline.2 (.inl h)) hlow]
      · obtain ⟨hlow, hl⟩ := hquiet h
        rw [exec_syncQuiet hcr hl hlow, State.fireLine_of_recessive (hline.2 (.inr (.inl h))) hlow, hl]
      · obtain ⟨hlow, hl⟩ := hquiet h
        rw [exec_lineClear hcr hl, State.fireLine_of_recessive (hline.2 (.inr (.inr (.inl h)))) hlow, hl]
      · obtain ⟨hlow, hl, hh, hy⟩ := hyield h
        rw [exec_yieldLapse hcr hl hh hy, State.fireLine_of_recessive (hline.2 (.inr (.inr (.inr h)))) hlow, hl]

end Sys2Proof.Machine
end

section
/-! SUPPORT. The apply of the own orders: what the Request Unit makes of the outcome, and the entry to MEMBER and LEAVING
(R34, R109 to R114, R118 to R120). -/

namespace Sys2Proof.Machine

/-! ### The ticket of an own request (R111, R112) -/

section
variable {r : Ru} {q : Request} {z : Zone}

/-- The outcome of a CLAIM settles its zone's ticket and no other. -/
theorem Ru.settle_claim {m : Mode} (hq : q.op = .claim z m) (o : EditOutcome) (y : Zone) :
    (r.settle q o).ticket y =
      if y = z ∧ o = .granted then .holding q.tag m
      else if y = z ∧ o = .queued then .waiting q.tag m
      else r.ticket y := by
  unfold Ru.settle
  rw [hq]
  cases o <;> simp [eq_comm]

/-- The outcome of a RELEASE ends its zone's ticket and no other. -/
theorem Ru.settle_release (hq : q.op = .release z) (o : EditOutcome) (y : Zone) :
    (r.settle q o).ticket y = if y = z ∧ (o = .released ∨ o = .withdrawn) then .none else r.ticket y := by
  unfold Ru.settle
  rw [hq]
  cases o <;> simp [eq_comm]

theorem Ru.settle_touch (hq : q.op = .touch) (o : EditOutcome) : r.settle q o = r.clearTouch := by
  unfold Ru.settle
  rw [hq]

theorem Ru.settle_leave (hq : q.op = .leave) (o : EditOutcome) : r.settle q o = r := by
  unfold Ru.settle
  rw [hq]

/-- Only a TOUCH changes more than a ticket. -/
theorem Ru.settle_touchFlag (hq : q.op ≠ .touch) (o : EditOutcome) : (r.settle q o).touchFlag = r.touchFlag := by
  unfold Ru.settle
  split <;> first | rfl | contradiction

/-- The request on the line is the head: it leaves the queue with its outcome (R109). -/
theorem Ru.ownApplied_of_head {behind : List Request} (hq : r.queue = q :: behind) (hl : q.onLine = true) (o : EditOutcome)
    (turn : Turn) :
    r.ownApplied (some .request) o turn = (({ r with queue := behind } : Ru).settle q o, [q.outcome o turn]) := by
  unfold Ru.ownApplied
  rw [hq]
  simp only [List.find?_cons, hl, List.eraseP_cons_of_pos]

end

/-! ### The edit report of an own order at a MEMBER -/

/-- An own edit other than LEAVE and JOIN reports no removal. -/
theorem Ztu.apply_removals_of_plain {op : OrderOp} (h1 : op ≠ .leave) (h2 : op ≠ .join) (t : Ztu) (roster : StationSet)
    (k own : Station) : (t.apply roster k own op).removals = [] := by
  cases op with
  | claim z m => exact (t.claim_rest roster k z m).2.1
  | release z => exact (t.release_rest roster k z).2.1
  | touch => rfl
  | leave => exact absurd rfl h1
  | join => exact absurd rfl h2

/-- The tickets that an own LEAVE ends, with their notices (R114). -/
def Ru.left (op : OrderOp) (turn : Turn) (removals : List Zone) (r : Ru) : Ru × List Notice :=
  if op = .leave then Ru.loseEach turn (.frame .leave) removals r else (r, [])

/-- The own order: its outcome, no grant beside it, and the removals of a LEAVE. -/
theorem Ru.handle_of_own {self : Station} {turn : Turn} {op : OrderOp} {src : Source} {e : EditResult} (r : Ru)
    (orig : Option Station) (hg : e.ownGrants self = []) (hr : op = .leave ∨ e.removals = []) :
    r.handle self turn { orig := orig, op := some op, own := some src } e =
      (((r.ownApplied (some src) e.outcome turn).1.left op turn e.removals).1,
        (r.ownApplied (some src) e.outcome turn).2 ++
          ((r.ownApplied (some src) e.outcome turn).1.left op turn e.removals).2, false) := by
  have himp : ({ orig := orig, op := some op, own := some src } : EditCause).impostor self = false := by
    simp [EditCause.impostor]
  by_cases ho : op = .leave
  · have hl : ({ orig := orig, op := some op, own := some src } : EditCause).ownLeave = true := by simp [EditCause.ownLeave, ho]
    simp [Ru.handle, hg, himp, hl, Ru.left, if_pos ho]
  · have hl : ({ orig := orig, op := some op, own := some src } : EditCause).ownLeave = false := by simp [EditCause.ownLeave, ho]
    simp [Ru.handle, Ru.left, hg, himp, hl, ho, hr.resolve_left ho]

/-- The apply of an own order at a MEMBER, up to the change of its station state. -/
theorem State.applyFrame_of_own {s : State} {f : Frame} {op : OrderOp} {src : Source} {e : EditResult}
    (he : s.ztu.apply s.tc.roster f.orig s.self op = e) (hs : s.tc.state = .member) (hg : e.ownGrants s.self = [])
    (hr : op = .leave ∨ e.removals = []) (hj : op ≠ .join) :
    let a := s.ru.ownApplied (some src) e.outcome f.turn
    let b := a.1.left op f.turn e.removals
    ∃ t : State, s.applyFrame f op (some src) =
        (t.membershipChange op true).armRoll .order ((t.membershipChange op true).tc.state.confirms && !e.foreign) ∧
      t = { s with
        ztu := e.ztu
        tc :=
          { state := .member
            turn := s.tc.turn + 1
            lastApplied := some { orig := f.orig, turn := f.turn, check := f.check }
            roster := e.roster
            closure := some (f.closureOf op e true)
            waitTimer := if t.waitCond then (if s.waitCond then s.tc.waitTimer else some 0) else none }
        ru := b.1
        hp := s.hp.posts (a.2 ++ b.2) } := by
  intro a b
  have hx : (s.edited f op e true).ruReport f.turn { orig := some f.orig, op := some op, own := some src } e =
      (((s.edited f op e true).onRu fun _ => b.1).syncWait (s.edited f op e true).waitCond, a.2 ++ b.2, false) := by
    have hh := Ru.handle_of_own (turn := f.turn) (op := op) (src := src) s.ru (some f.orig) hg hr
    have hstate : (s.edited f op e true).tc.state = .member := by rw [State.edited_eq]; exact hs
    have hru : (s.edited f op e true).ru.handle (s.edited f op e true).self f.turn
        { orig := some f.orig, op := some op, own := some src } e = (b.1, a.2 ++ b.2, false) := by
      rw [State.edited_eq]
      exact hh
    rw [State.ruReport, if_pos hstate, hru]
  have hn : s.membershipNotices f op true e.foreign = [] := by
    cases op with
    | join => exact absurd rfl hj
    | leave => rfl
    | claim _ _ => rfl
    | release _ => rfl
    | touch => rfl
  have hw : (s.edited f op e true).waitCond = s.waitCond := by
    rw [State.edited_eq]
    rfl
  have ha := State.applyFrame_eq (own := some src) he hx
  rw [if_neg (by simp), Option.isSome_some, hn, State.postEither_nil_right, hw] at ha
  refine ⟨_, ha, ?_⟩
  have hcond : (({ (((s.edited f op e true).onRu fun _ => b.1).syncWait s.waitCond) with
      hp := (((s.edited f op e true).onRu fun _ => b.1).syncWait s.waitCond).hp.posts (a.2 ++ b.2) } : State)).waitCond =
      ((s.edited f op e true).onRu fun _ => b.1).waitCond :=
    State.waitCond_congr rfl (Hp.posts_waitLimit _ _) rfl
  rw [hcond, ← hs, State.edited_eq]
  rfl

theorem Fe.dropPending_rx (src : Source) (f : Fe) : (f.dropPending src).rx = f.rx := by cases src <;> rfl

/-- The state in which an own order is handled: the frame accepted, its attempt over and its frame pending no longer. -/
def State.sent (a : Attempt) (s : State) : State :=
  { s.atClose with fe := { s.atClose.fe.dropPending a.source with tx := none } }

/-- The CLOSE of the own order frame with no closure pending: it is handed over. -/
theorem exec_frameClose_of_ownOrder {s : State} {a : Attempt} {f : Frame} {op : OrderOp} (h : s.receivesOwn a f)
    (hc : s.noClosure) (hp : f.payload = .order op) :
    exec .frameClose s = .next ((s.sent a).handOrder f op (some a.source)).setHold := by
  have hw : a.withdrawn = false := h.2.2.2.2.2.1
  have hsent : s.atClose.attemptSent a = s.sent a := State.attemptSent_of_unwithdrawn hw _
  have hc' : (s.sent a).noClosure := hc
  rw [exec_frameClose_of_receivesOwn h, hsent]
  unfold State.handFrame
  rw [State.closeBefore_of_noClosure hc', hp, if_pos (by simp [Frame.isOrder, hp])]
  rfl

/-- What a station in step makes of its own order at its turn: it applies it. -/
theorem State.handOrder_of_own {s : State} {f : Frame} {op : OrderOp} {src : Source} (hi : s.inStep)
    (ht : f.turn = s.tc.turn) : s.handOrder f op (some src) = s.applyFrame f op (some src) := by
  rw [State.handOrder_of_inStep hi]
  exact State.orderInStep_of_apply ht (by simp [isImpostorFrame])

section
variable {s : State} {a : Attempt} {f : Frame} {op : OrderOp} {e : EditResult}

/-- What the apply of an own order leaves of the table, the records, the frames and the line (R34). -/
abbrev State.ownApplies (s : State) (f : Frame) (op : OrderOp) (e : EditResult) (t : State) : Prop :=
  t.ztu = e.ztu ∧ t.tc.turn = s.tc.turn + 1 ∧
    t.tc.lastApplied = some { orig := f.orig, turn := f.turn, check := f.check } ∧ t.tc.roster = e.roster ∧
    t.tc.closure = some (f.closureOf op e true) ∧ t.fe.tx = none ∧ t.fe.rx = none ∧ t.fe.hold = true ∧
    t.fe.rollUse = .order ∧ t.fe.slotRequest = !e.foreign ∧ t.lif = s.atClose.lif ∧ t.pins = s.pins

/-- An own CLAIM, RELEASE or TOUCH at a MEMBER: the Request Unit settles it, and the wait-probe timer follows (R109, R118). -/
theorem exec_frameClose_of_ownPlain (h : s.receivesOwn a f) (hc : s.noClosure) (hp : f.payload = .order op)
    (ho : f.orig = s.self) (ht : f.turn = s.tc.turn) (he : s.ztu.apply s.tc.roster s.self s.self op = e)
    (hg : ∀ g ∈ e.grants, g.entry.station ≠ s.self) (hs : s.tc.state = .member) (h1 : op ≠ .leave) (h2 : op ≠ .join) :
    ∃ t, exec .frameClose s = .next t ∧ s.ownApplies f op e t ∧
      t.tc.waitTimer = (if t.waitCond then (if s.waitCond then s.tc.waitTimer else some 0) else none) ∧
      t.tc.state = .member ∧ t.ru = (s.ru.ownApplied (some a.source) e.outcome f.turn).1 ∧
      t.hp = s.hp.posts (s.ru.ownApplied (some a.source) e.outcome f.turn).2 ∧ t.cu = s.cu := by
  have he' : (s.sent a).ztu.apply (s.sent a).tc.roster f.orig (s.sent a).self op = e := by rw [ho]; exact he
  have hr : e.removals = [] := he ▸ Ztu.apply_removals_of_plain h1 h2 _ _ _ _
  obtain ⟨t, happly, htt⟩ := State.applyFrame_of_own (s := s.sent a) (src := a.source) he' hs
    (EditResult.ownGrants_of_none hg) (.inr hr) h2
  have hleft : (Ru.left op f.turn e.removals (s.ru.ownApplied (some a.source) e.outcome f.turn).1) =
      ((s.ru.ownApplied (some a.source) e.outcome f.turn).1, []) := if_neg h1
  have hchange : t.membershipChange op true = t := by
    cases op with
    | leave => exact absurd rfl h1
    | join => exact absurd rfl h2
    | claim _ _ => rfl
    | release _ => rfl
    | touch => rfl
  have hstate : t.tc.state = .member := by rw [htt]
  rw [hchange, hstate] at happly
  refine ⟨(t.armRoll .order (!e.foreign)).setHold, ?_, ?_, ?_, hstate, ?_, ?_, ?_⟩
  · rw [exec_frameClose_of_ownOrder h hc hp, State.handOrder_of_own (s := s.sent a) (.inr (.inl hs)) ht, happly]
    rfl
  · rw [htt]
    exact ⟨rfl, rfl, rfl, rfl, rfl, rfl, Fe.dropPending_rx _ _, rfl, rfl, rfl, rfl, rfl⟩
  · exact (congrArg (fun u : State => u.tc.waitTimer) htt :)
  · have hru : t.ru = _ := congrArg State.ru htt
    rw [show (s.sent a).ru = s.ru from rfl, hleft] at hru
    exact hru
  · have hhp : t.hp = _ := congrArg State.hp htt
    refine hhp.trans ?_
    rw [show (s.sent a).ru = s.ru from rfl, hleft, List.append_nil]
    rfl
  · rw [htt]
    rfl

end

/-- The removals of an own LEAVE name no zone twice, where no holder waits. -/
theorem Ztu.leave_removals_nodup {t : Ztu} (h : ∀ z : Zone, (t.zone z).apart) {self : Station} (roster : StationSet) :
    (t.apply roster self self .leave).removals.Nodup := by
  have hone : StationSet.has (StationSet.one self) self = true := by simp
  have hr : (t.apply roster self self .leave).removals = t.removalsOf (StationSet.one self) self := by
    simp only [Ztu.apply, Ztu.remove]
  rw [hr, Ztu.removalsOf, if_pos hone]
  refine List.Nodup.append ((List.nodup_finRange 64).filter _) ((List.nodup_finRange 64).filter _) ?_
  intro z hz hz'
  simp only [List.mem_filter, ZoneRec.waits, List.any_eq_true, beq_iff_eq] at hz hz'
  obtain ⟨-, w, hw, hk⟩ := hz
  have hnot := (h z).2 w hw
  rw [hk, hz'.2] at hnot
  cases hnot

/-- The own LEAVE at a MEMBER: its request is told, the tickets of its removals end, and the source side closes (R69, R114). -/
theorem exec_frameClose_of_ownLeave {s : State} {a : Attempt} {f : Frame} {e : EditResult} {q : Request}
    {behind : List Request} (h : s.receivesOwn a f) (hc : s.noClosure) (hp : f.payload = .order .leave)
    (ho : f.orig = s.self) (ht : f.turn = s.tc.turn) (he : s.ztu.apply s.tc.roster s.self s.self .leave = e)
    (hg : ∀ g ∈ e.grants, g.entry.station ≠ s.self) (hsrc : a.source = .request) (hs : s.tc.state = .member)
    (hq : s.ru.queue = q :: behind) (hl : q.onLine = true) (hop : q.op = .leave) :
    let lost := Ru.loseEach f.turn (.frame .leave) e.removals { s.ru with queue := behind }
    ∃ t, exec .frameClose s = .next t ∧ s.ownApplies f .leave e t ∧ t.tc.waitTimer = none ∧ t.tc.state = .leaving ∧
      t.ru = lost.1.clearTouch ∧ t.fe.copy = none ∧
      t.cu =
        { s.cu with
          waiting := 0, phase := .idle, streamSet := 0, partIndex := 0, partCount := 0, repNo := 0, image := none } ∧
      t.hp = s.hp.posts (q.outcome e.outcome f.turn :: lost.2) := by
  intro lost
  have he' : (s.sent a).ztu.apply (s.sent a).tc.roster f.orig (s.sent a).self .leave = e := by rw [ho]; exact he
  obtain ⟨t, happly, htt⟩ := State.applyFrame_of_own (s := s.sent a) (src := a.source) he' hs
    (EditResult.ownGrants_of_none hg) (.inl rfl) (by simp)
  have hown : (s.sent a).ru.ownApplied (some a.source) e.outcome f.turn =
      ({ s.ru with queue := behind }, [q.outcome e.outcome f.turn]) := by
    rw [hsrc, show (s.sent a).ru = s.ru from rfl, Ru.ownApplied_of_head hq hl, Ru.settle_leave hop]
  rw [hown] at htt
  have hlost : Ru.left .leave f.turn e.removals { s.ru with queue := behind } = lost := if_pos rfl
  dsimp only at htt
  rw [hlost] at htt
  have htx : (t.setState .leaving).stopWait.fe.tx = none := by rw [htt]; rfl
  have hchange : t.membershipChange .leave true = t.enterLeaving := rfl
  have hstate : t.enterLeaving.tc.state = .leaving := rfl
  rw [hchange, hstate] at happly
  refine ⟨(t.enterLeaving.armRoll .order (!e.foreign)).setHold, ?_, ?_, rfl, rfl, ?_, ?_, ?_, ?_⟩
  · rw [exec_frameClose_of_ownOrder h hc hp, State.handOrder_of_own (s := s.sent a) (.inr (.inl hs)) ht, happly]
    rfl
  · rw [htt]
    exact ⟨rfl, rfl, rfl, rfl, rfl, rfl, (Fe.dropPending_rx a.source s.atClose.fe).trans rfl, rfl, rfl, rfl, rfl, rfl⟩
  · rw [htt]
    rfl
  · rfl
  · rw [htt]
    rfl
  · rw [htt]
    rfl

/-- Settles O26: each kind of an own order at a MEMBER, and the own JOIN. -/
theorem ownOrdersTakeEffect : Obligations.OwnOrdersTakeEffect := by
  intro s a f op h hc hp ho ht e hg applied timed
  have he : s.ztu.apply s.tc.roster s.self s.self op = e := rfl
  clear_value e
  refine ⟨fun q behind hsrc hs hq hl hop => ?_, fun hsrc hop hs => ?_, fun hsrc hop hs => ?_⟩
  · intro told
    have hown : s.ru.ownApplied (some a.source) e.outcome f.turn =
        (({ s.ru with queue := behind } : Ru).settle q e.outcome, [told]) := by
      rw [hsrc, Ru.ownApplied_of_head hq hl]
      rfl
    have hplain := exec_frameClose_of_ownPlain h hc hp ho ht he hg hs
    rw [hown] at hplain
    refine ⟨fun z m hz => ?_, fun z hz => ?_, fun hz => ?_, fun hz hapart => ?_⟩
    · obtain ⟨t, hex, happlied, htimed, hstate, hru, hhp, hcu⟩ := hplain (by simp [← hop, hz, ReqOp.order])
        (by simp [← hop, hz, ReqOp.order])
      refine ⟨t, hex, happlied, htimed, hstate, ?_, fun y => ?_, ?_, hhp, hcu⟩
      · rw [hru, Ru.settle_queue]
      · rw [hru, Ru.settle_claim hz]
        rfl
      · rw [hru, Ru.settle_touchFlag (by simp [hz])]
    · obtain ⟨t, hex, happlied, htimed, hstate, hru, hhp, hcu⟩ := hplain (by simp [← hop, hz, ReqOp.order])
        (by simp [← hop, hz, ReqOp.order])
      refine ⟨t, hex, happlied, htimed, hstate, ?_, fun y => ?_, ?_, hhp, hcu⟩
      · rw [hru, Ru.settle_queue]
      · rw [hru, Ru.settle_release hz]
        rfl
      · rw [hru, Ru.settle_touchFlag (by simp [hz])]
    · obtain ⟨t, hex, happlied, htimed, hstate, hru, hhp, hcu⟩ := hplain (by simp [← hop, hz, ReqOp.order])
        (by simp [← hop, hz, ReqOp.order])
      rw [Ru.settle_touch hz] at hru
      refine ⟨t, hex, happlied, htimed, hstate, ?_, fun y => ?_, ?_, ?_, hhp, hcu⟩
      all_goals rw [hru]; rfl
    · have hleave : op = .leave := by rw [← hop, hz]; rfl
      subst hleave
      obtain ⟨t, hex, happlied, hwait, hstate, hru, hcopy, hcu, hhp⟩ :=
        exec_frameClose_of_ownLeave h hc hp ho ht he hg hsrc hs hq hl hz
      refine ⟨t, hex, happlied, hwait, hstate, ?_, fun y => ?_, ?_, ?_, hcopy, hcu, ?_⟩
      · rw [hru, Ru.loseEach_rest]
        rfl
      · rw [hru, Ru.ticket_clearTouch, Ru.loseEach_ticket]
        rfl
      · rw [hru]
        rfl
      · rw [hru]
        rfl
      · have hnodup : e.removals.Nodup := he ▸ Ztu.leave_removals_nodup hapart _
        rw [hhp, Ru.loseEach_notices _ _ _ hnodup, List.filterMap_eq_flatMap_toList]
        refine congrArg (fun ns => s.hp.posts (told :: ns)) (List.flatMap_congr fun z _ => ?_)
        have hticket : ({ s.ru with queue := behind } : Ru).ticket z = s.ru.ticket z := rfl
        rw [hticket]
        cases s.ru.ticket z <;> rfl
  · subst hop
    obtain ⟨t, hex, happlied, htimed, hstate, hru, hhp, hcu⟩ := exec_frameClose_of_ownPlain h hc hp ho ht he hg hs
      (by simp) (by simp)
    rw [hsrc] at hru hhp
    refine ⟨t, hex, happlied, htimed, hstate, ?_, fun y => ?_, ?_, ?_, ?_, hhp, hcu⟩
    all_goals rw [hru]; rfl
  · subst hop
    have hnot : s.tc.state ≠ .member := by rcases hs with ⟨hs, -⟩ | hs <;> simp [hs]
    have happly : (s.sent a).handOrder f .join (some a.source) = (s.sent a).applyFrame f .join (some a.source) := by
      rcases hs with ⟨hs, h0⟩ | hs
      · unfold State.handOrder
        rw [show (s.sent a).tc.state = .founding from hs]
        exact if_pos (by simp [ht, h0])
      · exact State.handOrder_of_own (s := s.sent a) (.inl hs) ht
    have he' : (s.sent a).ztu.apply (s.sent a).tc.roster f.orig (s.sent a).self .join = e := by rw [ho]; exact he
    have hforeign : e.foreign = false := by rw [← he, Ztu.apply_foreign]; rfl
    have hx := State.ruReport_of_not_member (s := (s.sent a).edited f .join e true) (by rw [State.edited_eq]; exact hnot)
      f.turn { orig := some f.orig, op := some .join, own := some a.source } e
    have hframe := State.applyFrame_eq (own := some a.source) he' hx
    rw [if_neg (by simp), State.postEither_nil_left, State.edited_eq] at hframe
    refine ⟨_, exec_frameClose_of_ownOrder h hc hp, ?_⟩
    rw [happly, hframe]
    have hjoin : (s.sent a).fe.join = none := by
      unfold State.sent
      rw [hsrc]
      rfl
    refine ⟨⟨rfl, rfl, rfl, rfl, rfl, rfl, Fe.dropPending_rx _ _, rfl, rfl, ?_, rfl, rfl⟩, rfl, rfl, hjoin, rfl, rfl, rfl⟩
    rw [hforeign]
    rfl

end Sys2Proof.Machine
end

section
/-! SUPPORT. FRAME_CLOSE at a requester: heads, parts and the pending log (O30). -/

namespace Sys2Proof.Machine

/-! ### The hand-over in COPYING -/

theorem exec_frameClose_of_copyHead {s : State} {f : Frame} {body : List Byte} (h : s.receives f) (hc : s.noClosure)
    (hs : s.tc.state = .copying) (hp : f.payload = .copyHead body) :
    exec .frameClose s = .next (s.atClose.copyHead f.orig body) := by
  have hcopy : s.atClose.handCopy f false = s.atClose.copyHead f.orig body := by
    unfold State.handCopy
    rw [show s.atClose.tc.state = .copying from hs, hp]
  rw [exec_frameClose_of_noClosure h hc, hp]
  exact congrArg Host.Outcome.next hcopy

theorem exec_frameClose_of_copyPart {s : State} {f : Frame} {body : List Byte} (h : s.receives f) (hc : s.noClosure)
    (hs : s.tc.state = .copying) (hp : f.payload = .copyPart body) :
    exec .frameClose s = .next (s.atClose.copyPart f.orig body) := by
  have hcopy : s.atClose.handCopy f false = s.atClose.copyPart f.orig body := by
    unfold State.handCopy
    rw [show s.atClose.tc.state = .copying from hs, hp]
  rw [exec_frameClose_of_noClosure h hc, hp]
  exact congrArg Host.Outcome.next hcopy

theorem exec_frameClose_of_logged {s : State} {f : Frame} {op : OrderOp} (h : s.receives f) (hc : s.noClosure)
    (hs : s.tc.state = .copying) (hp : f.payload = .order op) :
    exec .frameClose s = .next (s.atClose.logFrame f op).setHold := by
  have horder : s.atClose.handOrder f op none = s.atClose.logFrame f op := by
    unfold State.handOrder
    rw [show s.atClose.tc.state = .copying from hs]
  rw [exec_frameClose_of_noClosure h hc, hp]
  exact congrArg (fun t => Host.Outcome.next t.setHold) horder

/-- A copy failure after changes of the requester side alone. -/
theorem State.restartsTo_of_requester {s : State} (why : CopyReason) (htx : s.fe.tx = none) (g : Cu → Cu)
    (haw : (g s.cu).awaited = s.cu.awaited) (hcu : (g s.cu).clearRequester = s.cu.clearRequester) :
    s.restartsTo [] why ((s.onCu g).copyFailure why) :=
  State.restartsTo_copyFailure why htx rfl rfl (Hp.posts_nil _).symm haw hcu rfl rfl rfl

/-! ### Heads (R88, R89, R187) -/

theorem HeadBody.consistent_iff (h : HeadBody) :
    h.consistent = true ↔ h.partCount ≤ h.occupied ∧ h.occupied ≤ 64 ∧ (h.partCount = 0 → h.occupied = 0) := by
  have hboth : ((h.partCount == 0) == (h.occupied == 0)) = true ↔ (h.partCount = 0 ↔ h.occupied = 0) := by
    rw [beq_iff_eq, Bool.eq_iff_iff, beq_iff_eq, beq_iff_eq]
  simp only [HeadBody.consistent, Bool.and_eq_true, decide_eq_true_eq, hboth]
  omega

section
variable {s : State} {orig : Station} {body : List Byte} {h : HeadBody}

theorem State.copyHead_of_other (hb : headOf body = some h)
    (ho : ¬ (s.cu.awaited = some orig ∧ StationSet.has h.requesters s.self = true)) : s.copyHead orig body = s := by
  unfold State.copyHead
  simp only [hb]
  refine if_pos ?_
  rw [Bool.not_eq_true', ← Bool.not_eq_true]
  exact not_and_or.1 ho

theorem State.copyHead_of_ours (hb : headOf body = some h)
    (ho : s.cu.awaited = some orig ∧ StationSet.has h.requesters s.self = true) :
    s.copyHead orig body =
      match s.cu.stream with
      | some st => if st.number = h.number then s.answerCopy else s.acceptHead h
      | none => s.acceptHead h := by
  unfold State.copyHead
  simp only [hb]
  refine if_neg ?_
  rw [Bool.not_eq_true', ← Bool.not_eq_true]
  exact fun e => not_and_or.2 e ho

theorem State.copyHead_of_recorded (hb : headOf body = some h)
    (ho : s.cu.awaited = some orig ∧ StationSet.has h.requesters s.self = true) {st : ReqStream}
    (hst : s.cu.stream = some st) (hn : st.number = h.number) : s.copyHead orig body = s.answerCopy := by
  rw [State.copyHead_of_ours hb ho, hst]
  exact if_pos hn

theorem State.copyHead_of_new (hb : headOf body = some h)
    (ho : s.cu.awaited = some orig ∧ StationSet.has h.requesters s.self = true)
    (hst : ∀ st, s.cu.stream = some st → st.number ≠ h.number) : s.copyHead orig body = s.acceptHead h := by
  rw [State.copyHead_of_ours hb ho]
  cases e : s.cu.stream with
  | none => rfl
  | some st => exact if_neg (hst st e)

/-- What the log keeps of a pruning (R88 step 3). -/
theorem LogEntry.before_eq (snap : Turn) (e : LogEntry) :
    e.before snap = (decide (1 ≤ (snap - e.turn).toNat) && decide ((snap - e.turn).toNat ≤ 32767)) := rfl

theorem logStartsAt_iff (snap : Turn) (log : List LogEntry) :
    logStartsAt snap log = true ↔ ∀ e, log.head? = some e → e.turn = snap := by
  cases log <;> simp [logStartsAt]

theorem State.acceptHead_of_inconsistent (hc : h.consistent = false) :
    s.acceptHead h = s.copyFailure .partMissed := by
  unfold State.acceptHead
  exact if_pos (by simp [hc])

theorem State.acceptHead_of_consistent (hc : h.consistent = true) :
    s.acceptHead h =
      if !logStartsAt h.snapTurn (s.cu.takeHead h).log then (s.onCu (Cu.takeHead h)).copyFailure .logGap
      else if h.partCount = 0 then (s.onCu (Cu.takeHead h)).install
      else (s.onCu (Cu.takeHead h)).answerCopy := by
  unfold State.acceptHead
  exact if_neg (by simp [hc])

theorem State.acceptHead_of_gap (hc : h.consistent = true) (hl : logStartsAt h.snapTurn (s.cu.takeHead h).log = false) :
    s.acceptHead h = (s.onCu (Cu.takeHead h)).copyFailure .logGap := by
  rw [State.acceptHead_of_consistent hc]
  exact if_pos (by simp [hl])

theorem State.acceptHead_of_parts (hc : h.consistent = true) (hl : logStartsAt h.snapTurn (s.cu.takeHead h).log = true)
    (hp : h.partCount ≠ 0) : s.acceptHead h = (s.onCu (Cu.takeHead h)).answerCopy := by
  rw [State.acceptHead_of_consistent hc, if_neg (by simp [hl])]
  exact if_neg hp

theorem State.acceptHead_of_noParts (hc : h.consistent = true) (hl : logStartsAt h.snapTurn (s.cu.takeHead h).log = true)
    (hp : h.partCount = 0) : s.acceptHead h = (s.onCu (Cu.takeHead h)).install := by
  rw [State.acceptHead_of_consistent hc, if_neg (by simp [hl])]
  exact if_pos hp

end

/-! ### Parts (R90) -/

section
variable {s : State} {orig : Station} {number index : Byte} {bytes : List Byte} {st : ReqStream}

theorem State.copyPart_of_noStream (hst : s.cu.stream = none) : s.copyPart orig (number :: index :: bytes) = s := by
  unfold State.copyPart
  simp only [hst]

theorem State.copyPart_of_stream (hst : s.cu.stream = some st) :
    s.copyPart orig (number :: index :: bytes) =
      if s.cu.awaited ≠ some orig ∨ number ≠ st.number then s
      else if index.toNat < st.nextPart then s.answerCopy
      else if st.nextPart < index.toNat then s.copyFailure .partMissed
      else
        match readRecs bytes with
        | none => s.copyFailure .partMissed
        | some recs =>
          if st.nextPart + 1 = st.partCount then (s.onCu (Cu.takePart st recs)).install
          else (s.onCu (Cu.takePart st recs)).answerCopy := by
  unfold State.copyPart
  simp only [hst] <;> rfl

theorem State.copyPart_of_other (hst : s.cu.stream = some st) (ho : ¬ (s.cu.awaited = some orig ∧ st.number = number)) :
    s.copyPart orig (number :: index :: bytes) = s := by
  rw [State.copyPart_of_stream hst]
  exact if_pos (by rw [ne_comm (a := number)]; exact not_and_or.1 ho)

theorem State.copyPart_of_ours (hst : s.cu.stream = some st) (ho : s.cu.awaited = some orig ∧ st.number = number) :
    s.copyPart orig (number :: index :: bytes) =
      if index.toNat < st.nextPart then s.answerCopy
      else if st.nextPart < index.toNat then s.copyFailure .partMissed
      else
        match readRecs bytes with
        | none => s.copyFailure .partMissed
        | some recs =>
          if st.nextPart + 1 = st.partCount then (s.onCu (Cu.takePart st recs)).install
          else (s.onCu (Cu.takePart st recs)).answerCopy := by
  rw [State.copyPart_of_stream hst]
  exact if_neg (by rw [ne_comm (a := number)]; exact fun e => not_and_or.2 e ho)

theorem State.copyPart_of_next (hst : s.cu.stream = some st) (ho : s.cu.awaited = some orig ∧ st.number = number)
    (hi : st.nextPart = index.toNat) :
    s.copyPart orig (number :: index :: bytes) =
      match readRecs bytes with
      | none => s.copyFailure .partMissed
      | some recs =>
        if st.nextPart + 1 = st.partCount then (s.onCu (Cu.takePart st recs)).install
        else (s.onCu (Cu.takePart st recs)).answerCopy := by
  rw [State.copyPart_of_ours hst ho, if_neg (by omega), if_neg (by omega)]

theorem readRecs_bytes {recs : List CopyRec} (h : ∀ r ∈ recs, r.queue.length ≤ 31) :
    readRecs (recs.flatMap CopyRec.bytes) = some recs := readRecsUpTo_bytes h le_rfl

end

/-! ### The pending log (R85 to R87) -/

section
variable {s : State} {f : Frame} {op : OrderOp}

theorem State.logFrame_of_on (hs : s.tc.state = .copying) (hl : s.cu.logging = true) :
    s.logFrame f op =
      match s.cu.log.getLast? with
      | none =>
        match s.cu.stream with
        | none => s.appendLog f op
        | some st => s.compareLog f op st.snapTurn true
      | some e =>
        if e.isRepeat f && !e.closed then
          (s.onCu fun c => { c with log := onNewest (fun e => { e with repSeen := max e.repSeen f.repNo }) c.log }).armRoll
            (.log f.repNo) false
        else (s.onCu Cu.closeNewest).compareLog f op (e.turn + 1) false := by
  unfold State.logFrame
  exact if_neg (by simp [hs, hl])

theorem State.appendLog_of_room (h : s.cu.log.length < 24) :
    s.appendLog f op =
      (s.onCu fun c => { c with log := c.log ++ [LogEntry.ofFrame f op] }).armRoll (.log f.repNo) false :=
  if_neg (Nat.not_le.2 h)

theorem State.appendLog_of_full (h : 24 ≤ s.cu.log.length) : s.appendLog f op = s.copyFailure .logFull := if_pos h

theorem State.compareLog_of_expected {t : Turn} (h : f.turn = t) (empty : Bool) :
    s.compareLog f op t empty = s.appendLog f op := by
  unfold State.compareLog
  exact if_pos (by simp [h])

theorem State.compareLog_of_ahead {t : Turn} (h1 : 1 ≤ (f.turn - t).toNat) (h2 : (f.turn - t).toNat ≤ 32767)
    (empty : Bool) : s.compareLog f op t empty = s.copyFailure .logGap := by
  unfold State.compareLog
  exact (if_neg (by omega)).trans (if_pos h2)

theorem State.compareLog_of_behind {t : Turn} (h1 : 32768 ≤ (f.turn - t).toNat) {empty : Bool}
    (h2 : (f.turn - t).toNat ≤ 65534 ∨ empty = true) : s.compareLog f op t empty = s := by
  unfold State.compareLog
  refine (if_neg (by omega)).trans ((if_neg (by omega)).trans (if_neg ?_))
  rintro ⟨hd, he⟩
  rcases h2 with h2 | h2
  · omega
  · simp [h2] at he

theorem State.compareLog_of_justBehind {t : Turn} (h : (f.turn - t).toNat = 65535) :
    s.compareLog f op t false = s.copyFailure .logGap := by
  unfold State.compareLog
  exact (if_neg (by omega)).trans ((if_neg (by omega)).trans (if_pos ⟨h, rfl⟩))

theorem LogEntry.isRepeat_iff (e : LogEntry) (f : Frame) :
    (e.isRepeat f && !e.closed) = true ↔ e.closed = false ∧ e.turn = f.turn ∧ e.orig = f.orig ∧ e.check = f.check := by
  simp only [LogEntry.isRepeat, Bool.and_eq_true, beq_iff_eq, Bool.not_eq_true']
  tauto

/-- A turn is 65535 ahead of the next one. -/
theorem turn_behind_next (t : Turn) : (t - (t + 1)).toNat = 65535 := by
  have e : t - (t + 1) = (65535#16 : Turn) := by bv_omega
  rw [e]
  rfl

end

/-- The hold set after a copy failure. -/
theorem State.restartsTo_setHold {s t : State} {before : List Notice} {why : CopyReason}
    (h : s.restartsTo before why t) : s.setHold.restartsTo before why t.setHold := by
  obtain ⟨hhp, hcu, hz, hfree, htc, hfe, hru, hlif, hpins⟩ := h
  refine ⟨hhp, hcu, hz, hfree, htc, ?_, hru, hlif, hpins⟩
  rw [State.setHold_fe, hfe]
  rfl

/-- The log with the newest entry closed. -/
theorem Cu.closeNewest_of_log {c : Cu} {older : List LogEntry} {e : LogEntry} (h : c.log = older ++ [e]) :
    c.closeNewest = { c with log := older ++ [{ e with closed := true }] } := by
  unfold Cu.closeNewest
  rw [h, onNewest_append]

/-- Settles O30: the branches of the requester. -/
theorem requesterTakesTheCopy : Obligations.RequesterTakesTheCopy := by
  refine ⟨fun s f h hc hs => ?_, fun s f op h hc hs hp hl => ?_⟩
  · intro answered fails
    have htx : s.atClose.fe.tx = none := h.tx_none
    refine ⟨fun number snap roster requesters parts occupied hp hparts hocc => ?_, fun number index bytes hp => ?_⟩
    · intro ours kept
      have hb := headOf_bytes ⟨number, snap, roster, requesters, parts, occupied⟩ hparts hocc
      have hclose : exec .frameClose s = .next
          (s.atClose.copyHead f.orig (HeadBody.bytes ⟨number, snap, roster, requesters, parts, occupied⟩)) :=
        exec_frameClose_of_copyHead h hc hs hp
      refine ⟨fun ho => ?_, fun ho st hst hn => ?_, fun ho hst => ⟨fun hbad => ?_, fun h1 h2 h3 e he hne => ?_,
        fun h1 h2 h3 hk => ?_⟩⟩
      · rw [hclose]
        exact congrArg Host.Outcome.next (State.copyHead_of_other (s := s.atClose) hb ho)
      · rw [hclose]
        exact congrArg Host.Outcome.next (State.copyHead_of_recorded (s := s.atClose) hb ho hst hn)
      · have hnew := State.copyHead_of_new (s := s.atClose) hb ho hst
        refine ⟨_, hclose, ?_⟩
        rw [hnew, State.acceptHead_of_inconsistent]
        · exact State.restartsTo_of_requester .partMissed htx id rfl rfl
        · rw [← Bool.not_eq_true, HeadBody.consistent_iff]
          intro hcons
          simp only at hcons
          omega
      · have hnew := State.copyHead_of_new (s := s.atClose) hb ho hst
        refine ⟨_, hclose, ?_⟩
        rw [hnew, State.acceptHead_of_gap ((HeadBody.consistent_iff _).2 ⟨h1, h2, h3⟩)]
        · exact State.restartsTo_of_requester .logGap htx _ rfl rfl
        · rw [← Bool.not_eq_true, logStartsAt_iff]
          exact fun hall => hne (hall e he)
      · have hnew := State.copyHead_of_new (s := s.atClose) hb ho hst
        have hcons : parts = 0 → occupied = 0 := fun h0 => absurd h0 (by omega)
        rw [hclose]
        exact congrArg Host.Outcome.next (hnew.trans (State.acceptHead_of_parts
          ((HeadBody.consistent_iff _).2 ⟨h2, h3, hcons⟩) ((logStartsAt_iff _ _).2 hk) (Nat.one_le_iff_ne_zero.1 h1)))
    · have hclose := exec_frameClose_of_copyPart h hc hs hp
      refine ⟨fun hst => ?_, fun st hst => ?_⟩
      · rw [hclose]
        exact congrArg Host.Outcome.next (State.copyPart_of_noStream (s := s.atClose) hst)
      · intro ours
        refine ⟨fun ho => ?_, fun ho hi => ?_, fun ho hi => ⟨_, hclose, ?_⟩, fun ho hi => ⟨fun hr => ⟨_, hclose, ?_⟩,
          fun had recs hbuild hbytes hq hlast => ?_⟩⟩
        · rw [hclose]
          exact congrArg Host.Outcome.next (State.copyPart_of_other (s := s.atClose) hst ho)
        · rw [hclose, State.copyPart_of_ours (s := s.atClose) hst ho, if_pos hi]
          rfl
        · rw [State.copyPart_of_ours (s := s.atClose) hst ho, if_neg (by omega), if_pos hi]
          exact State.restartsTo_of_requester .partMissed htx id rfl rfl
        · rw [State.copyPart_of_next (s := s.atClose) hst ho hi, hr]
          exact State.restartsTo_of_requester .partMissed htx id rfl rfl
        · rw [hclose, State.copyPart_of_next (s := s.atClose) hst ho hi, hbytes, readRecs_bytes hq]
          refine congrArg Host.Outcome.next ((if_neg hlast).trans ?_)
          have htake : Cu.takePart st recs s.cu =
              { s.cu with
                stream := some { st with nextPart := st.nextPart + 1 }, build := some (had ++ recs),
                copyTimer := some 0 } := by
            unfold Cu.takePart
            rw [hbuild]
            rfl
          exact congrArg (fun c => ({ s.atClose with cu := c } : State).answerCopy) htake
  · intro closed entry logged fails
    have htx : s.atClose.fe.tx = none := h.tx_none
    have hclose := exec_frameClose_of_logged h hc hs hp
    have hlog := State.logFrame_of_on (s := s.atClose) (f := f) (op := op) hs hl
    have hfails {why : CopyReason} {g : Cu → Cu} (haw : (g s.cu).awaited = s.cu.awaited)
        (hcu : (g s.cu).clearRequester = s.cu.clearRequester)
        (hf : s.atClose.logFrame f op = (s.atClose.onCu g).copyFailure why) : fails why := by
      refine ⟨_, hclose, ?_⟩
      rw [hf]
      exact State.restartsTo_setHold (s := s.atClose) (State.restartsTo_of_requester why htx g haw hcu)
    refine ⟨fun hnil => ?_, fun older e hcons => ?_⟩
    · have hlast : s.atClose.cu.log.getLast? = none := by rw [show s.atClose.cu.log = [] from hnil]; rfl
      have hroom : s.atClose.cu.log.length < 24 := by rw [show s.atClose.cu.log = [] from hnil]; decide
      have happend : s.atClose.appendLog f op =
          { s.atClose with fe := { s.atClose.fe with rollUse := .log f.repNo }, cu := { s.cu with log := [entry] } } := by
        rw [State.appendLog_of_room hroom]
        exact congrArg (fun l => ({ s.atClose with cu := { s.cu with log := l ++ [entry] } } : State).armRoll
          (.log f.repNo) false) hnil
      rw [hlast] at hlog
      refine ⟨fun hst => ?_, fun st hst => ?_⟩
      · rw [show s.atClose.cu.stream = none from hst] at hlog
        change exec .frameClose s = _
        rw [hclose, hlog]
        exact congrArg (fun t => Host.Outcome.next t.setHold) happend
      · rw [show s.atClose.cu.stream = some st from hst] at hlog
        refine ⟨fun ht => ?_, fun h1 h2 => ?_, fun h1 => ?_⟩
        · have hcmp := State.compareLog_of_expected (s := s.atClose) (f := f) (op := op) ht true
          change exec .frameClose s = _
          rw [hclose, hlog]
          exact congrArg (fun t => Host.Outcome.next t.setHold) (hcmp.trans happend)
        · exact hfails (g := id) rfl rfl (hlog.trans (State.compareLog_of_ahead h1 h2 true))
        · rw [hclose, hlog]
          exact congrArg (fun t => Host.Outcome.next t.setHold)
            (State.compareLog_of_behind (s := s.atClose) h1 (.inr rfl))
    · intro again d
      have hlast : s.atClose.cu.log.getLast? = some e := by
        rw [show s.atClose.cu.log = older ++ [e] from hcons, List.getLast?_concat]
      have hnewest := Cu.closeNewest_of_log hcons
      rw [hlast] at hlog
      have hother (hn : ¬ again) :
          s.atClose.logFrame f op = (s.atClose.onCu Cu.closeNewest).compareLog f op (e.turn + 1) false :=
        hlog.trans (if_neg fun hr => hn ((LogEntry.isRepeat_iff e f).1 hr))
      have hnext (ht : f.turn = e.turn + 1) : ¬ again := fun ha => by
        have h2 := ha.2.1
        rw [ht] at h2
        bv_omega
      have hd (hd : d ≤ 65534) : ¬ again := fun ha => by
        have hb := turn_behind_next e.turn
        simp only [d, ← ha.2.1, hb] at hd
        omega
      refine ⟨fun ha => ?_, fun ht hroom => ?_, fun ht hfull => ?_, fun h1 h2 => ?_, fun ht hn => ?_, fun h1 h2 => ?_⟩
      · change exec .frameClose s = _
        have hrep := hlog.trans (if_pos ((LogEntry.isRepeat_iff e f).2 ha))
        rw [hclose, hrep]
        have hseen : onNewest (fun e : LogEntry => { e with repSeen := max e.repSeen f.repNo }) s.cu.log =
            older ++ [{ e with repSeen := if e.repSeen < f.repNo then f.repNo else e.repSeen }] := by
          rw [hcons, onNewest_append, repSeen_max]
        exact congrArg (fun l => Host.Outcome.next ((({ s.atClose with cu := { s.cu with log := l } } : State).armRoll
          (.log f.repNo) false).setHold)) hseen
      · change exec .frameClose s = _
        have hlen : (s.atClose.onCu Cu.closeNewest).cu.log.length < 24 := by
          have e' : (s.atClose.onCu Cu.closeNewest).cu.log = older ++ [{ e with closed := true }] :=
            congrArg Cu.log hnewest
          rw [e', List.length_append, List.length_singleton]
          omega
        rw [hclose, hother (hnext ht), State.compareLog_of_expected ht, State.appendLog_of_room hlen]
        have hnew : (Cu.closeNewest s.cu).log ++ [entry] = older ++ [{ e with closed := true }, entry] := by
          rw [hnewest]
          simp
        exact congrArg (fun l => Host.Outcome.next ((({ s.atClose with cu := { s.cu with log := l } } : State).armRoll
          (.log f.repNo) false).setHold)) hnew
      · have hlen : 24 ≤ (s.atClose.onCu Cu.closeNewest).cu.log.length := by
          have e' : (s.atClose.onCu Cu.closeNewest).cu.log = older ++ [{ e with closed := true }] :=
            congrArg Cu.log hnewest
          rw [e', List.length_append, List.length_singleton]
          omega
        refine hfails (g := Cu.closeNewest) rfl rfl ?_
        rw [hother (hnext ht), State.compareLog_of_expected ht, State.appendLog_of_full hlen]
      · exact hfails (g := Cu.closeNewest) rfl rfl ((hother (hd (by omega))).trans (State.compareLog_of_ahead h1 h2 false))
      · refine hfails (g := Cu.closeNewest) rfl rfl ((hother hn).trans (State.compareLog_of_justBehind ?_))
        rw [ht]
        exact turn_behind_next e.turn
      · rw [hclose, hother (hd h2), State.compareLog_of_behind h1 (.inl h2)]
        exact congrArg (fun c => Host.Outcome.next (({ s.atClose with cu := c } : State).setHold)) hnewest

end Sys2Proof.Machine
end

section
/-! SUPPORT. The install of the copy: the replay of the log and the CLOSE that brings it on (O54). -/

namespace Sys2Proof.Machine

/-! ### The replay (R94, R95) -/

theorem State.replay_cons (l : LogEntry) (ls : List LogEntry) (s : State) :
    s.replay (l :: ls) =
      if l.orig = s.self then .failed true
      else if l.closed then
        match (s.replayApply l).replayClose with
        | none => .failed false
        | some t => t.replay ls
      else (s.replayApply l).replay ls := rfl

theorem State.replayApply_turn (l : LogEntry) (s : State) : (s.replayApply l).tc.turn = s.tc.turn + 1 := rfl

theorem State.replayClose_turn {s t : State} (h : s.replayClose = some t) : t.tc.turn = s.tc.turn := by
  unfold State.replayClose at h
  split at h
  · obtain rfl := Option.some.inj h
    rfl
  · split at h
    · exact absurd h (by simp)
    · simp only at h
      split at h
      · exact absurd h (by simp)
      · obtain rfl := Option.some.inj h
        split <;> rfl

/-- A replay advances T by one for each entry. -/
theorem State.replay_turn {log : List LogEntry} {s t : State} (h : s.replay log = .done t) :
    t.tc.turn = s.tc.turn + BitVec.ofNat 16 log.length := by
  induction log generalizing s with
  | nil =>
    obtain rfl := InstallEnd.done.inj h
    simp
  | cons l ls ih =>
    have hlen : s.tc.turn + BitVec.ofNat 16 (l :: ls).length = s.tc.turn + 1 + BitVec.ofNat 16 ls.length := by
      rw [List.length_cons, Nat.add_comm, ← BitVec.ofNat_add_ofNat, BitVec.add_assoc]
      rfl
    rw [State.replay_cons] at h
    rw [hlen]
    split at h
    · exact absurd h (by simp)
    · split at h
      · split at h
        · exact absurd h (by simp)
        · next u hu =>
          rw [ih h, State.replayClose_turn hu, State.replayApply_turn]
      · rw [ih h, State.replayApply_turn]

/-! ### The install (R93 to R96) -/

section
variable {s : State} {st : ReqStream} {recs : List CopyRec}

theorem State.tryInstall_of_refused (hst : s.cu.stream = some st) (hb : s.cu.build = some recs)
    (hi : imageAccepted st.roster st.occupied recs = false) : s.tryInstall = .refused := by
  unfold State.tryInstall
  rw [hst, hb]
  exact if_neg (by simp [hi])

theorem State.tryInstall_of_accepted (hst : s.cu.stream = some st) (hb : s.cu.build = some recs)
    (hi : imageAccepted st.roster st.occupied recs = true) :
    s.tryInstall = (s.putImage st recs).replay s.cu.log := by
  unfold State.tryInstall
  rw [hst, hb]
  exact if_pos hi

theorem State.install_of_done {t : State} (h : s.tryInstall = .done t) :
    s.install = t.enterJoining.armRoll .none true := by
  unfold State.install
  rw [h]

theorem State.install_of_refused (h : s.tryInstall = .refused) : s.install = s.copyFailure .partMissed := by
  unfold State.install
  rw [h]

theorem State.install_of_failed (h : s.tryInstall = .failed false) : s.install = s.copyFailure .logGap := by
  unfold State.install
  rw [h]
  rfl

theorem State.install_of_duplicate (h : s.tryInstall = .failed true) :
    s.install = (s.post (duplicateNotice s.self)).copyFailure .logGap := by
  unfold State.install
  rw [h]
  rfl

theorem State.copyFailure_state (why : CopyReason) : (s.copyFailure why).tc.state = .hailing := rfl

/-- A station that an install leaves in JOINING stands at the snapshot turn plus one for each log entry. -/
theorem State.install_turn (hst : s.cu.stream = some st) (hb : s.cu.build = some recs)
    (hi : imageAccepted st.roster st.occupied recs = true) (hj : s.install.tc.state = .joining) :
    s.install.tc.turn = st.snapTurn + BitVec.ofNat 16 s.cu.log.length := by
  have htry := State.tryInstall_of_accepted hst hb hi
  cases hr : (s.putImage st recs).replay s.cu.log with
  | done t =>
    rw [State.install_of_done (htry.trans hr)]
    exact State.replay_turn hr
  | refused =>
    rw [State.install_of_refused (htry.trans hr), State.copyFailure_state] at hj
    exact absurd hj (by decide)
  | failed duplicate =>
    unfold State.install at hj
    rw [htry, hr] at hj
    exact absurd ((State.copyFailure_state .logGap).symm.trans hj) (by decide)

end

/-! ### The closure of a replayed entry (R95) -/

section
variable {s : State} {c : ClosureRecord} {roll : StationSet}

theorem State.replayClose_of_unreadable (hc : s.tc.closure = some c)
    (hr : c.lastRoll = none ∨ c.lastRoll = some .unreadable) : s.replayClose = none := by
  unfold State.replayClose
  rw [hc]
  rcases hr with hr | hr <;> simp only [hr, Option.getD_none, Option.getD_some]

theorem State.replayClose_of_readable (hc : s.tc.closure = some c) (hr : c.lastRoll = some (.readable roll)) :
    s.replayClose =
      if StationSet.has (StationSet.minus c.expected roll) s.self then none
      else
        some ((if StationSet.minus c.expected roll = 0 then s
          else s.setTable (s.ztu.remove s.tc.roster (StationSet.minus c.expected roll) s.self)).onTc
            fun t => { t with closure := some { c with closed := true } }) := by
  unfold State.replayClose
  simp only [hc, hr, Option.getD_some]

theorem State.replayClose_of_missing (hc : s.tc.closure = some c) (hr : c.lastRoll = some (.readable roll))
    (hm : StationSet.has (StationSet.minus c.expected roll) s.self = true) : s.replayClose = none :=
  (State.replayClose_of_readable hc hr).trans (if_pos hm)

theorem State.replayClose_of_whole (hc : s.tc.closure = some c) (hr : c.lastRoll = some (.readable roll))
    (hw : StationSet.minus c.expected roll = 0) :
    s.replayClose = some (s.onTc fun t => { t with closure := some { c with closed := true } }) := by
  have hm : ¬ StationSet.has (StationSet.minus c.expected roll) s.self = true := by
    rw [hw]
    simp [StationSet.has]
  rw [State.replayClose_of_readable hc hr, if_neg hm, if_pos hw]

theorem State.replayClose_of_lacking (hc : s.tc.closure = some c) (hr : c.lastRoll = some (.readable roll))
    (hw : StationSet.minus c.expected roll ≠ 0)
    (hm : StationSet.has (StationSet.minus c.expected roll) s.self = false) :
    s.replayClose =
      some ((s.setTable (s.ztu.remove s.tc.roster (StationSet.minus c.expected roll) s.self)).onTc
        fun t => { t with closure := some { c with closed := true } }) := by
  rw [State.replayClose_of_readable hc hr, if_neg (by simp [hm]), if_neg hw]

end

/-! ### The replay of one entry -/

section
variable {s : State} {l : LogEntry}

theorem State.replay_of_own (ho : l.orig = s.self) (ls : List LogEntry) : s.replay (l :: ls) = .failed true := if_pos ho

theorem State.replay_of_open (ho : l.orig ≠ s.self) (hc : l.closed = false) :
    s.replay [l] = .done (s.replayApply l) := by
  rw [State.replay_cons, if_neg ho, if_neg (by simp [hc])]
  rfl

theorem State.replay_of_failed (ho : l.orig ≠ s.self) (hc : l.closed = true)
    (hr : (s.replayApply l).replayClose = none) (ls : List LogEntry) : s.replay (l :: ls) = .failed false := by
  rw [State.replay_cons, if_neg ho, if_pos hc, hr]

theorem State.replay_of_closed (ho : l.orig ≠ s.self) (hc : l.closed = true) {t : State}
    (hr : (s.replayApply l).replayClose = some t) : s.replay [l] = .done t := by
  rw [State.replay_cons, if_neg ho, if_pos hc, hr]
  rfl

end

/-- The removal at a replayed closure, and the entry to JOINING after it. -/
theorem State.enterJoining_of_removal (v : State) (r : EditResult) (c : ClosureRecord) :
    ((v.setTable r).onTc fun t => { t with closure := some c }).enterJoining.armRoll .none true =
      { v with
        ztu := r.ztu
        tc := { v.tc with state := .joining, roster := r.roster, closure := some c }
        fe := { v.fe with join := some 0, rollUse := .none, slotRequest := true }
        cu := v.cu.clearRequester } := rfl

/-! ### The final part and the head with no part -/

/-- The CLOSE of the final part installs the image. -/
theorem State.copyPart_of_final {s : State} {orig : Station} {number index : Byte} {st : ReqStream} {recs : List CopyRec}
    (hst : s.cu.stream = some st) (ho : s.cu.awaited = some orig ∧ st.number = number) (hi : st.nextPart = index.toNat)
    (hq : ∀ r ∈ recs, r.queue.length ≤ 31) (hl : st.nextPart + 1 = st.partCount) :
    s.copyPart orig (number :: index :: recs.flatMap CopyRec.bytes) = (s.onCu (Cu.takePart st recs)).install := by
  rw [State.copyPart_of_next hst ho hi, readRecs_bytes hq]
  exact if_pos hl

/-- Settles O54: the image as the table, the replay and the ends of the install. -/
theorem installMakesTheImageTheTable : Obligations.InstallMakesTheImageTheTable := by
  refine ⟨fun roster occupied recs => ?_, fun roster occupied recs hi => ⟨fun c hc z hz => ?_, fun z hz => ?_, ?_⟩,
    fun s f h hc hs haw => ?_⟩
  · rw [imageAccepted_iff]
    simp only [CopyRec.admitted_iff] <;> rfl
  · exact Ztu.ofImage_zone_of_named hi hc hz
  · exact Ztu.ofImage_zone_of_not_named hz
  · exact Ztu.total_ofImage hi
  · intro joins fails
    have htx : s.atClose.fe.tx = none := h.tx_none
    refine ⟨fun number snap roster requesters hp hreq hst hlog => ?_,
      fun number index st had recs hp hq hst hn hi hlast hbuild => ?_⟩
    · have hb := headOf_bytes ⟨number, snap, roster, requesters, 0, 0⟩ (Nat.zero_lt_succ 255) (Nat.zero_lt_succ 255)
      have hclose : exec .frameClose s = .next
          (s.atClose.copyHead f.orig (HeadBody.bytes ⟨number, snap, roster, requesters, 0, 0⟩)) :=
        exec_frameClose_of_copyHead h hc hs hp
      have hempty : (Cu.takeHead ⟨number, snap, roster, requesters, 0, 0⟩ s.cu).log = [] := by
        refine List.filter_eq_nil_iff.2 fun e he => ?_
        obtain ⟨h1, h2⟩ := hlog e he
        have hbefore : e.before snap = true := by
          rw [LogEntry.before_eq, Bool.and_eq_true, decide_eq_true_eq, decide_eq_true_eq]
          exact ⟨h1, h2⟩
        simp [hbefore]
      have hnew := State.copyHead_of_new (s := s.atClose) hb ⟨haw, hreq⟩ hst
      have haccept := State.acceptHead_of_noParts (s := s.atClose) (h := ⟨number, snap, roster, requesters, 0, 0⟩) rfl
        ((congrArg (logStartsAt snap) hempty).trans rfl) rfl
      have htry := State.tryInstall_of_accepted (s := s.atClose.onCu (Cu.takeHead ⟨number, snap, roster, requesters, 0, 0⟩))
        rfl rfl rfl
      rw [show (s.atClose.onCu (Cu.takeHead ⟨number, snap, roster, requesters, 0, 0⟩)).cu.log = [] from hempty] at htry
      rw [hclose, hnew, haccept, State.install_of_done htry]
      rfl
    · intro whole
      let u : State := s.atClose.onCu (Cu.takePart st recs)
      let st' : ReqStream := { st with nextPart := st.nextPart + 1 }
      have hclose : exec .frameClose s = .next u.install :=
        (exec_frameClose_of_copyPart h hc hs hp).trans
          (congrArg Host.Outcome.next (State.copyPart_of_final (s := s.atClose) hst ⟨haw, hn⟩ hi hq hlast))
      have hus : u.cu.stream = some st' := rfl
      have hub : u.cu.build = some whole := by
        change some (s.cu.build.getD [] ++ recs) = _
        rw [hbuild]
        rfl
      have hul : u.cu.log = s.cu.log := rfl
      have hfails {why : CopyReason} (hu : u.install = u.copyFailure why) : fails [] why := by
        refine ⟨_, hclose, ?_⟩
        rw [hu]
        exact State.restartsTo_of_requester why htx _ rfl rfl
      refine ⟨fun himg => ?_, fun himg => ⟨fun t ht hj => ?_, fun hnil => ?_, fun l hl => ⟨fun ho => ?_, fun ho => ?_⟩⟩⟩
      · exact hfails (State.install_of_refused (State.tryInstall_of_refused hus hub himg))
      · rw [hclose] at ht
        obtain rfl := Host.Outcome.next.inj ht
        exact State.install_turn (st := st') hus hub himg hj
      · have htry := State.tryInstall_of_accepted hus hub himg
        rw [hul, hnil] at htry
        rw [hclose, State.install_of_done htry]
        rfl
      · have htry := State.tryInstall_of_accepted (st := st') hus hub himg
        rw [hul, hl, State.replay_of_own (s := u.putImage st' whole) ho] at htry
        refine ⟨_, hclose, ?_⟩
        rw [State.install_of_duplicate htry]
        exact State.restartsTo_copyFailure (s := s.atClose) (u := u.post (duplicateNotice u.self)) .logGap htx rfl rfl rfl
          rfl rfl rfl rfl rfl
      · intro e c last
        let v : State := (u.putImage st' whole).replayApply l
        have hv : v.tc.closure = some c := rfl
        have htry := State.tryInstall_of_accepted (st := st') hus hub himg
        rw [hul, hl] at htry
        have hfailed (hcl : l.closed = true) (hr : v.replayClose = none) : fails [] .logGap :=
          hfails (State.install_of_failed (htry.trans (State.replay_of_failed (s := u.putImage st' whole) ho hcl hr [])))
        refine ⟨fun hcl => ?_, fun hcl hr => ?_, fun roll hcl hr => ?_⟩
        · rw [hclose, State.install_of_done (htry.trans (State.replay_of_open (s := u.putImage st' whole) ho hcl))]
          rfl
        · exact hfailed hcl (State.replayClose_of_unreadable hv hr)
        · intro gone
          refine ⟨fun hm => ?_, fun hw => ?_, fun hw hm => ?_⟩
          · exact hfailed hcl (State.replayClose_of_missing hv hr hm)
          · have hdone := State.replayClose_of_whole hv hr hw
            rw [hclose, State.install_of_done (htry.trans (State.replay_of_closed (s := u.putImage st' whole) ho hcl hdone))]
            rfl
          · intro r
            have hremove : v.ztu.remove v.tc.roster (StationSet.minus c.expected roll) v.self = r := rfl
            have hdone := State.replayClose_of_lacking hv hr hw hm
            rw [hremove] at hdone
            clear_value r
            rw [hclose, State.install_of_done (htry.trans (State.replay_of_closed (s := u.putImage st' whole) ho hcl hdone))]
            rw [State.enterJoining_of_removal]
            rfl

end Sys2Proof.Machine
end

section
/-! SUPPORT. The ends of attempts: a counted try at each source, the sender's failed tests on a pulse that runs on, and what
40Q of dominant level bring about (O40). -/

namespace Sys2Proof.Machine

/-! ### A counted try in the words of the statements (R174) -/

section
variable {p : Pins} {l : Lif} {F : Fe → Fe}

theorem Fe.Outer.rept_eq (hF : Fe.Outer F) (f : Fe) : (F f).rept = f.rept := (congrArg Fe.rept (hF.rept f f.rept) :)

theorem Fe.Outer.hail_eq (hF : Fe.Outer F) (f : Fe) : (F f).hail = f.hail := (congrArg Fe.hail (hF.hail f f.hail) :)

theorem Fe.Outer.join_eq (hF : Fe.Outer F) (f : Fe) : (F f).join = f.join := (congrArg Fe.join (hF.join f f.join) :)

theorem Fe.Outer.copy_eq (hF : Fe.Outer F) (f : Fe) : (F f).copy = f.copy := (congrArg Fe.copy (hF.copy f f.copy) :)

theorem State.outer_abandonJoin (hF : Fe.Outer F) (k : FrameKind) (s : State) :
    (s.outer p l F).abandonJoin k = (s.abandonJoin k).outer p l F := by
  have h : ((s.outer p l F).discardTable.setState .offline).onFe
        (fun f => ((f.withdraw .hail).withdraw .join).withdraw .rept) =
      ((s.discardTable.setState .offline).onFe fun f => ((f.withdraw .hail).withdraw .join).withdraw .rept).outer p l F :=
    State.outer_onFe (s.discardTable.setState .offline) (by simp only [hF.withdraw])
  simp only [State.abandonJoin, h, State.outer_onCu, State.outer_cancelRequests hF, State.outer_post]

theorem State.outer_joinTry (hF : Fe.Outer F) (k : FrameKind) (s : State) :
    (s.outer p l F).joinTry k = (s.joinTry k).outer p l F := by
  have hhail (n : Option Nat) : (s.outer p l F).onFe (fun f => { f with hail := n }) =
      (s.onFe fun f => { f with hail := n }).outer p l F := State.outer_onFe s (hF.hail s.fe n)
  have hjoin (n : Option Nat) : (s.outer p l F).onFe (fun f => { f with join := n }) =
      (s.onFe fun f => { f with join := n }).outer p l F := State.outer_onFe s (hF.join s.fe n)
  have h1 : (s.outer p l F).fe.hail = s.fe.hail := hF.hail_eq s.fe
  have h2 : (s.outer p l F).fe.join = s.fe.join := hF.join_eq s.fe
  unfold State.joinTry
  rw [h1, h2]
  split
  · split
    · rfl
    · rw [hhail, State.outer_abandonJoin hF, ← apply_ite (State.outer p l F)]
  · split
    · rfl
    · rw [hjoin, State.outer_abandonJoin hF, ← apply_ite (State.outer p l F)]

theorem State.outer_copyTry (hF : Fe.Outer F) (s : State) : (s.outer p l F).copyTry = s.copyTry.outer p l F := by
  have hcopy (n : Option Nat) : (s.outer p l F).onFe (fun f => { f with copy := n }) =
      (s.onFe fun f => { f with copy := n }).outer p l F := State.outer_onFe s (hF.copy s.fe n)
  have h1 : (s.outer p l F).fe.copy = s.fe.copy := hF.copy_eq s.fe
  unfold State.copyTry
  rw [h1]
  split
  · rfl
  · rw [hcopy, State.outer_abandonStream hF, State.outer_startStream hF, ← apply_ite (State.outer p l F)]

/-- A counted try leaves the outer parts alone. -/
theorem State.outer_reportTry (hF : Fe.Outer F) (src : Source) (s : State) :
    (s.outer p l F).reportTry src = (s.reportTry src).outer p l F := by
  cases src with
  | rept =>
    refine State.outer_onFe s ?_
    rw [Fe.repeatTry, Fe.repeatTry, hF.rept, hF.rept_eq]
  | join => exact State.outer_joinTry hF .join s
  | hail => exact State.outer_joinTry hF .hail s
  | copy => exact State.outer_copyTry hF s
  | request =>
    unfold State.reportTry
    exact State.outer_postAll s.ru.requestTry.2 (s.onRu fun _ => s.ru.requestTry.1)
  | touch =>
    have h := State.outer_postAll (p := p) (l := l) (F := F) s.ru.touchTry.2 (s.onRu fun _ => s.ru.touchTry.1)
    simp only [State.reportTry]
    refine Eq.trans ?_ (apply_ite (State.outer p l F) _ _ _).symm
    refine if_congr Iff.rfl h ?_
    exact (congrArg State.restartWait h).trans rfl

/-- A counted try keeps the pins, the Line Interface and, of the Frame Engine, reception, roll, hold and yield timer. -/
theorem State.reportTry_reframed (src : Source) (s : State) :
    s.reportTry src =
      { s.reportTry src with pins := s.pins, lif := s.lif, fe := s.fe.reframed (s.reportTry src).fe } :=
  State.outer_reportTry (p := s.pins) (l := s.lif) (Fe.outer_reframed s.fe) src s

end

/-- The join abandoned, the requests gone with their notices. -/
theorem State.abandonJoin_eq {k : FrameKind} {s : State} :
    s.abandonJoin k =
      { s with
        ztu := Ztu.reset
        tc := { s.tc with state := .offline, turn := 0, roster := 0, lastApplied := none, closure := none }
        fe := ((((s.fe.withdraw .hail).withdraw .join).withdraw .rept).withdraw .request).withdraw .touch
        cu := { s.cu with log := [], logging := false }
        ru := { s.ru with queue := [], touchFlag := false, touchOnLine := false, touchTries := 0 }
        hp := (s.hp.posts (s.ru.cancelledNotices .abandoned)).post
          { kind := .sendFailed, reason := some (.frame k) } } := by
  simp only [State.abandonJoin, State.cancelRequests_eq]
  rfl

/-- A counted try brings no station to FOUNDING. -/
theorem State.reportTry_founding {src : Source} {s : State} (h : (s.reportTry src).tc.state = .founding) :
    s.tc.state = .founding := by
  have hjoin (k : FrameKind) (h : (s.joinTry k).tc.state = .founding) : s.tc.state = .founding := by
    unfold State.joinTry at h
    have habandon (k : FrameKind) : (s.abandonJoin k).tc.state ≠ .founding := by
      rw [State.abandonJoin_eq]
      exact fun e => StationState.noConfusion e
    split at h
    all_goals
      split at h
      · exact h
      · split at h
        · exact absurd h (habandon _)
        · exact h
  cases src with
  | rept => exact h
  | join => exact hjoin .join h
  | hail => exact hjoin .hail h
  | copy =>
    change s.copyTry.tc.state = .founding at h
    unfold State.copyTry State.startStream at h
    split at h
    · exact h
    · split at h
      · split at h <;> exact h
      · exact h
  | request =>
    simp only [State.reportTry, State.postAll_eq] at h
    exact h
  | touch =>
    simp only [State.reportTry, State.postAll_eq] at h
    split at h <;> exact h

theorem State.abandonsTo_abandonJoin {s : State} (htx : s.fe.tx = none) (k : FrameKind) :
    s.abandonsTo k (s.abandonJoin k) := by
  rw [State.abandonJoin_eq]
  refine ⟨?_, rfl, fun z => Ztu.zone_reset z, rfl, rfl, ?_, rfl, rfl, rfl⟩
  · rw [Hp.posts_append]
    rfl
  · simp [Fe.withdraw, Fe.dropPending, htx]

theorem countTry_of_lt {n : Nat} (h : n < 7) : countTry n = some (n + 1) := if_neg (by unfold maxTries; omega)

theorem countTry_seven : countTry 7 = none := rfl

/-- The head request on the line is the one that the try is counted for. -/
theorem Ru.find_onLine {r : Ru} {q : Request} {behind : List Request} (h : r.queue = q :: behind) (hq : q.onLine = true) :
    (r.queue.find? fun q => q.onLine) = some q := by
  rw [h]
  exact List.find?_cons_of_pos hq

theorem Ru.requestTry_of_lt {r : Ru} {q : Request} {behind : List Request} (h : r.queue = q :: behind)
    (hq : q.onLine = true) (hb : ∀ p ∈ behind, p.onLine = false) (ht : q.tries < 7) :
    r.requestTry = ({ r with queue := { q with tries := q.tries + 1, onLine := false } :: behind }, []) := by
  have hmap : (r.queue.map fun q => if q.onLine then { q with tries := q.tries + 1, onLine := false } else q) =
      { q with tries := q.tries + 1, onLine := false } :: behind := by
    rw [h, List.map_cons, if_pos hq]
    refine congrArg (List.cons _) ((List.map_congr_left fun p hp => ?_).trans (List.map_id behind))
    exact if_neg (by simp [hb p hp])
  unfold Ru.requestTry
  simp only [Ru.find_onLine h hq, hmap]
  exact if_neg (by unfold maxTries; omega)

theorem Ru.requestTry_of_last {r : Ru} {q : Request} {behind : List Request} (h : r.queue = q :: behind)
    (hq : q.onLine = true) (ht : q.tries = 7) :
    r.requestTry = ({ r with queue := behind }, [q.sendFailed]) := by
  have herase : (r.queue.eraseP fun q => q.onLine) = behind := by
    rw [h]
    exact List.eraseP_cons_of_pos hq
  unfold Ru.requestTry
  simp only [Ru.find_onLine h hq, herase, ht]
  rfl

/-- What is reported of a counted try with nothing of the own left on the line. -/
theorem State.tried_reportTry {t : State} (htx : t.fe.tx = none) (src : Source) : t.tried src (t.reportTry src) := by
  cases src with
  | request =>
    intro q behind hqueue hq hb
    refine ⟨fun ht => ?_, fun ht => ?_⟩
    · simp only [State.reportTry, Ru.requestTry_of_lt hqueue hq hb ht]
      rfl
    · simp only [State.reportTry, Ru.requestTry_of_last hqueue hq ht]
      rfl
  | touch =>
    refine ⟨fun ht => ?_, fun ht => ?_⟩
    · have h : t.ru.touchTry = ({ t.ru with touchOnLine := false, touchTries := t.ru.touchTries + 1 }, []) :=
        if_neg (by unfold maxTries; omega)
      simp only [State.reportTry, h]
      rfl
    · have h : t.ru.touchTry = ({ t.ru.clearTouch with touchOnLine := false },
          [{ kind := .sendFailed, reason := some (.frame .touch) }]) := if_pos (by unfold maxTries; omega)
      have hcond : ((t.onRu fun _ => { t.ru.clearTouch with touchOnLine := false }).post
          { kind := .sendFailed, reason := some (.frame .touch) }).waitCond = t.waitCond := by
        have hlimit : (t.hp.post { kind := .sendFailed, reason := some (.frame .touch) }).waitLimit = t.hp.waitLimit :=
          Hp.posts_waitLimit t.hp [_]
        simp only [State.waitCond, State.post_hp, State.post_tc, State.post_ru, State.onRu_hp, State.onRu_tc, State.onRu_ru,
          hlimit]
        rfl
      have hrestart := State.restartWait_eq ((t.onRu fun _ => { t.ru.clearTouch with touchOnLine := false }).post
        { kind := .sendFailed, reason := some (.frame .touch) })
      rw [hcond] at hrestart
      simp only [State.reportTry, h]
      exact hrestart
  | rept =>
    intro p hp
    change t.onFe Fe.repeatTry = _
    have hrept : t.fe.repeatTry =
        { t.fe with rept := if p.tries < 7 then some { p with tries := p.tries + 1 } else none } := by
      unfold Fe.repeatTry
      rw [hp]
      by_cases ht : p.tries < 7
      · rw [if_pos ht, Option.bind_some, countTry_of_lt ht]
        rfl
      · rw [if_neg ht, Option.bind_some, show countTry p.tries = none from if_pos (by unfold maxTries; omega)]
        rfl
    unfold State.onFe
    rw [hrept]
  | copy =>
    intro n hn cleared
    have hcopy : t.reportTry .copy =
        if (countTry n).isNone then t.abandonStream.startStream else t.onFe fun f => { f with copy := countTry n } := by
      change t.copyTry = _
      unfold State.copyTry
      rw [hn]
    have habandon : t.abandonStream = { t with fe := { t.fe with copy := none }, cu := cleared } :=
      State.abandonStream_of_tx_none htx
    refine ⟨fun ht => ?_, fun ht hw => ?_, fun ht hm hw => ?_⟩
    · rw [hcopy, countTry_of_lt ht]
      rfl
    · have hstart : ({ t with fe := { t.fe with copy := none }, cu := cleared } : State).startStream =
          { t with fe := { t.fe with copy := none }, cu := cleared } :=
        if_neg fun h => hw.elim (fun hm => hm h.2.1) fun hw => h.2.2 hw
      rw [hcopy, ht, countTry_seven, habandon]
      exact hstart
    · have hstart := State.startStream_of_idle (s := { t with fe := { t.fe with copy := none }, cu := cleared }) rfl hm
      rw [hcopy, ht, countTry_seven, habandon]
      exact hstart.trans (if_neg hw)
  | hail =>
    intro n hn
    have hhail : t.reportTry .hail =
        if (countTry n).isNone then t.abandonJoin .hail else t.onFe fun f => { f with hail := countTry n } := by
      change t.joinTry .hail = _
      simp only [State.joinTry, hn]
    refine ⟨fun ht => ?_, fun ht => ?_⟩
    · rw [hhail, countTry_of_lt ht]
      rfl
    · rw [hhail, ht, countTry_seven]
      exact State.abandonsTo_abandonJoin htx .hail
  | join =>
    intro n hn
    have hjoin : t.reportTry .join =
        if (countTry n).isNone then t.abandonJoin .join else t.onFe fun f => { f with join := countTry n } := by
      change t.joinTry .join = _
      simp only [State.joinTry, hn]
    refine ⟨fun ht => ?_, fun ht => ?_⟩
    · rw [hjoin, countTry_of_lt ht]
      rfl
    · rw [hjoin, ht, countTry_seven]
      exact State.abandonsTo_abandonJoin htx .join

end Sys2Proof.Machine
end

section
/-! SUPPORT. The sender's failed tests on a pulse that runs on past their points, and what 40Q of dominant level bring about:
LINE_STUCK and LINE_CLEAR (O40). -/

namespace Sys2Proof.Machine

/-! ### Failed tests (R171 to R173) -/

/-- The own HALT asked for at once. -/
theorem Lif.haltAfter_zero (l : Lif) :
    l.haltAfter 0 = { l with drive := some { symbol := .haltSymbol, left := 480 } } := rfl

section
variable {s : State} {a : Attempt} {x : Symbol}

/-- A pulse that started within the own drive and runs past the second point of its symbol. -/
theorem State.pulseTested_of_late {len : Nat} (htx : s.fe.tx = some a) (hf : a.faulted = false) (hx : s.compares a x)
    (hs : s.startsWithin a x 0) (hlen : x.window.2 < len) :
    s.pulseTested len = ({ s with lif := s.lif.dominantTo x.window.2 } : State).testFailed x true := by
  have hu := State.underTest_of_compares htx hf hx
  have hoff : ¬ s.startOff = true := by simp [State.startOff_of_startsWithin hu htx hs]
  unfold State.pulseTested
  rw [hu]
  simp only
  rw [if_neg hoff, if_pos hlen, ← Lif.dominantFor_eq]
  rfl

/-- A pulse that started within the own drive and ends before the first point of its symbol. -/
theorem State.pulseTested_of_early {len : Nat} (htx : s.fe.tx = some a) (hf : a.faulted = false) (hx : s.compares a x)
    (hs : s.startsWithin a x 0) (h2 : len ≤ x.window.2) (h1 : len < x.window.1) :
    s.pulseTested len = ({ s with lif := s.lif.dominantTo len } : State).testFailed x false := by
  have hu := State.underTest_of_compares htx hf hx
  have hoff : ¬ s.startOff = true := by simp [State.startOff_of_startsWithin hu htx hs]
  unfold State.pulseTested
  rw [hu]
  simp only
  rw [if_neg hoff, if_neg (by omega), if_pos h1, ← Lif.dominantFor_eq]
  rfl

/-- A failed test that is neither a loss nor the mark of a duplicate. -/
theorem State.testFailed_silent {late : Bool} (htx : s.fe.tx = some a) (h : x ≠ .bit false ∨ late = false) :
    s.testFailed x late =
      { s with lif := s.lif.haltAfter 0, fe := { s.fe with tx := some { a with faulted := true } } } := by
  have hloss : ¬ (x = .bit false ∧ late = true ∧ (s.fe.rx.any Reception.inArbitration) = true) := by
    rintro ⟨h1, h2, -⟩
    rcases h with h | h
    · exact h h1
    · simp [h] at h2
  have hdup : (x == .bit false && late && !(s.fe.rx.any Reception.inArbitration)) = false := by
    rcases h with h | h <;> simp [h]
  unfold State.testFailed
  simp only
  rw [if_neg hloss, hdup, State.faultFound_silent htx, Lif.haltAfter_zero]

variable {r : Reception}

/-- A BIT0 of the arbitration field that stays dominant is a loss. -/
theorem State.testFailed_lost (hrx : s.fe.rx = some r) (h6 : r.bits.length < 6) :
    s.testFailed (.bit false) true =
      { s with
        lif := s.lif.ownHalt
        fe := { s.fe with tx := none, rx := some { r with mark := false } }
        ru := { s.ru with
          queue := s.ru.queue.map fun q => { q with onLine := false }
          touchOnLine := false } } := by
  have hfield : s.fe.rx.any Reception.inArbitration = true := by
    rw [hrx]
    exact decide_eq_true h6
  have hloss : s.testFailed (.bit false) true = s.loseArbitration := if_pos ⟨rfl, rfl, hfield⟩
  rw [hloss, ← Lif.haltAlone_eq_ownHalt]
  simp only [State.loseArbitration, State.attemptEnded, State.onLif, State.onFe, State.onRu, hrx, Option.map_some]
  rfl

/-- A BIT0 after the arbitration field that stays dominant marks a second station with the own number. -/
theorem State.testFailed_suspected (htx : s.fe.tx = some a) (hrx : s.fe.rx = some r) (h6 : 6 ≤ r.bits.length) :
    s.testFailed (.bit false) true =
      { s with
        hp := s.hp.post { kind := .duplicateSuspect, station := some s.self }
        lif := s.lif.haltAfter 0
        fe := { s.fe with tx := some { a with faulted := true } } } := by
  have hfield : s.fe.rx.any Reception.inArbitration = false := by
    rw [hrx]
    exact decide_eq_false (by omega)
  unfold State.testFailed
  simp only
  rw [if_neg (by simp [hfield]), hfield]
  change (s.post (duplicateNotice s.self)).faultFound false = _
  rw [State.faultFound_silent (s := s.post (duplicateNotice s.self)) htx, Lif.haltAfter_zero]
  rfl

end

/-! ### 40Q of dominant level (R155) -/

/-- The Line Interface in STUCK. -/
def Lif.stuckAt (l : Lif) : Lif := { l.dominantTo 1600 with line := .stuck, drive := none }

/-- What is found at an earlier point of the stretch leaves no trace on a line that is STUCK. -/
theorem Lif.stuckAt_dominantTo {n : Nat} (h : n ≤ 1600) (d : Option Drive) (l : Lif) :
    ({ l.dominantTo n with drive := d } : Lif).stuckAt = l.stuckAt := by
  cases hlow : l.low
  · simp [Lif.stuckAt, Lif.dominantTo, Lif.later, hlow]
    omega
  · simp [Lif.stuckAt, Lif.dominantTo, Lif.later, hlow]
    omega

/-- The state at 40Q of dominant level, before the notice of it and the end of an attempt. -/
def State.struck (s : State) : State :=
  { s with
    lif := s.lif.stuckAt
    fe := { s.fe with rx := none, tx := none, hold := s.fe.hold || s.fe.rx.isSome } }

theorem State.leaveIdle_eq (s : State) :
    s.leaveIdle =
      { s with
        lif := { s.lif with line := if s.lif.line = .idle then .busy .pulse else s.lif.line }
        fe := { s.fe with yieldTimer := if s.lif.line = .idle then none else s.fe.yieldTimer } } := by
  by_cases h : s.lif.line = .idle
  · rw [if_pos h, if_pos h, State.leaveIdle_of_idle h]
  · rw [if_neg h, if_neg h, State.leaveIdle_of_not h]

/-- The discard of a frame, or of none, that sends no FOUNDING station back. -/
theorem State.discardFrame_kept {s : State} (h : ∀ r, s.fe.rx = some r → s.tc.state ≠ .founding ∨ r.mark = true) :
    s.discardFrame = { s with fe := { s.fe with rx := none, hold := s.fe.hold || s.fe.rx.isSome } } := by
  cases hrx : s.fe.rx with
  | none =>
    rw [State.discardFrame_of_none hrx, Option.isSome_none, Bool.or_false, ← hrx]
  | some r =>
    rw [State.discardFrame_of_kept hrx (h r hrx), Option.isSome_some, Bool.or_true]

theorem Lif.inRoll_eq_false {l : Lif} (h1 : l.line ≠ .busy .roll) (h2 : l.line ≠ .busy .rest) : l.inRoll = false := by
  simp [Lif.inRoll, h1, h2]

theorem State.attemptFailed_of_none {s : State} (h : s.fe.tx = none) : s.attemptFailed = s := by
  unfold State.attemptFailed
  rw [h]

theorem State.attemptFailed_of_withdrawn {s : State} {a : Attempt} (h : s.fe.tx = some a) (hw : a.withdrawn = true) :
    s.attemptFailed = s.onFe fun f => { f with tx := none } := by
  unfold State.attemptFailed
  rw [h]
  exact if_pos hw

theorem State.attemptFailed_of_quiet {s : State} (h : ∀ a, s.fe.tx = some a → a.withdrawn = true) :
    s.attemptFailed = s.onFe fun f => { f with tx := none } := by
  cases ha : s.fe.tx with
  | none =>
    rw [State.attemptFailed_of_none ha]
    simp only [State.onFe, ← ha]
  | some a => exact State.attemptFailed_of_withdrawn ha (h a ha)

theorem State.attemptFailed_of_pending {s : State} {a : Attempt} (h : s.fe.tx = some a) (hw : a.withdrawn = false) :
    s.attemptFailed = (s.onFe fun f => { f with tx := none }).reportTry a.source := by
  unfold State.attemptFailed
  rw [h]
  exact if_neg (by simp [hw])

section
variable {s w : State}

theorem State.stuckSeen_of (hw : s.leaveIdle.pulseTested 1600 = w) :
    s.stuckSeen =
      ((({ w with lif := { w.lif.dominantTo 1600 with drive := none } } : State).attemptFailed.discardFrame.cutRoll).post
        { kind := .lineStuck }).setLine .stuck := by
  unfold State.stuckSeen
  rw [hw]
  simp only [← Lif.dominantFor_eq]
  rfl

/-- 40Q of dominant level with no attempt whose end is reported to a source. -/
theorem State.stuckSeen_of_quiet (hw : s.leaveIdle.pulseTested 1600 = w)
    (htx : ∀ a, w.fe.tx = some a → a.withdrawn = true) (h1 : w.lif.line ≠ .busy .roll) (h2 : w.lif.line ≠ .busy .rest)
    (hk : ∀ r, w.fe.rx = some r → w.tc.state ≠ .founding ∨ r.mark = true) :
    s.stuckSeen = w.struck.post { kind := .lineStuck } := by
  let v : State := { w with lif := { w.lif.dominantTo 1600 with drive := none } }
  have hend : v.attemptFailed = v.onFe fun f => { f with tx := none } := State.attemptFailed_of_quiet htx
  have hdiscard := State.discardFrame_kept (s := v.onFe fun f => { f with tx := none }) hk
  have hcut : (v.onFe fun f => { f with tx := none }).discardFrame.cutRoll =
      (v.onFe fun f => { f with tx := none }).discardFrame := by
    refine State.cutRoll_of_not (Lif.inRoll_eq_false ?_ ?_)
    · rw [State.discardFrame_lif]
      exact h1
    · rw [State.discardFrame_lif]
      exact h2
  rw [State.stuckSeen_of hw]
  change ((v.attemptFailed.discardFrame.cutRoll).post _).setLine .stuck = _
  rw [hend, hcut, hdiscard]
  rfl

/-- 40Q of dominant level over an attempt: its end is a counted try at its source. -/
theorem State.stuckSeen_of_tried {a : Attempt} (hw : s.leaveIdle.pulseTested 1600 = w) (htx : w.fe.tx = some a)
    (hwd : a.withdrawn = false) (h1 : w.lif.line ≠ .busy .roll) (h2 : w.lif.line ≠ .busy .rest)
    (hk : ∀ r, w.fe.rx = some r → w.tc.state ≠ .founding ∨ r.mark = true) :
    s.stuckSeen = (w.struck.reportTry a.source).post { kind := .lineStuck } := by
  let v : State := { w with lif := { w.lif.dominantTo 1600 with drive := none }, fe := { w.fe with tx := none } }
  let F : Fe → Fe := fun f => { f with rx := none, hold := w.fe.hold || w.fe.rx.isSome }
  have hF : Fe.Outer F :=
    ⟨fun src _ => by cases src <;> rfl, fun _ _ => rfl, fun _ _ => rfl, fun _ _ => rfl, fun _ _ => rfl⟩
  have hout : w.struck.reportTry a.source = (v.reportTry a.source).outer w.pins w.lif.stuckAt F :=
    State.outer_reportTry hF a.source v
  have hre := State.reportTry_reframed a.source v
  have hrx : (v.reportTry a.source).fe.rx = w.fe.rx := by rw [hre]; rfl
  have hhold : (v.reportTry a.source).fe.hold = w.fe.hold := by rw [hre]; rfl
  have hpins : (v.reportTry a.source).pins = w.pins := by rw [hre]
  have hlif : (v.reportTry a.source).lif = { w.lif.dominantTo 1600 with drive := none } := by rw [hre]
  have hdiscard := State.discardFrame_kept (s := v.reportTry a.source) fun r hr =>
    (hk r (hrx.symm.trans hr)).imp (fun hs h => hs (State.reportTry_founding (s := v) h)) id
  have hcut : (v.reportTry a.source).discardFrame.cutRoll = (v.reportTry a.source).discardFrame := by
    refine State.cutRoll_of_not (Lif.inRoll_eq_false ?_ ?_)
    · rw [State.discardFrame_lif, hlif]
      exact h1
    · rw [State.discardFrame_lif, hlif]
      exact h2
  have hend := State.attemptFailed_of_pending
    (s := ({ w with lif := { w.lif.dominantTo 1600 with drive := none } } : State)) htx hwd
  rw [State.stuckSeen_of hw, hend, hout]
  change ((v.reportTry a.source).discardFrame.cutRoll.post _).setLine .stuck = _
  rw [hcut, hdiscard, hrx, hhold]
  have hfinal (u : State) (hu : u.lif = { w.lif.dominantTo 1600 with drive := none }) (hup : u.pins = w.pins) :
      (({ u with fe := F u.fe } : State).post { kind := .lineStuck }).setLine .stuck =
        (u.outer w.pins w.lif.stuckAt F).post { kind := .lineStuck } := by
    simp only [State.setLine, State.post, State.onLif, State.onHp, State.outer, hu, ← hup]
    rfl
  exact hfinal _ hlif hpins

end

end Sys2Proof.Machine
end

section
/-! SUPPORT. LINE_STUCK by line state and source, and LINE_CLEAR (O40). -/

namespace Sys2Proof.Machine

section
variable {s : State} {a : Attempt}

theorem State.struck_leaveIdle (s : State) :
    s.leaveIdle.struck =
      { s with
        lif := s.lif.stuckAt
        fe := { s.fe with
          rx := none
          tx := none
          hold := s.fe.hold || s.fe.rx.isSome
          yieldTimer := if s.lif.line = .idle then none else s.fe.yieldTimer } } := by
  rw [State.leaveIdle_eq]
  rfl

theorem State.leaveIdle_line_of {line : LineState} (h : s.lif.line ≠ line) (hp : line ≠ .busy .pulse) :
    s.leaveIdle.lif.line ≠ line := by
  rw [State.leaveIdle_eq]
  simp only
  split
  · exact hp.symm
  · exact h

@[simp] theorem State.leaveIdle_tx (s : State) : s.leaveIdle.fe.tx = s.fe.tx := by rw [State.leaveIdle_eq]
@[simp] theorem State.leaveIdle_rx (s : State) : s.leaveIdle.fe.rx = s.fe.rx := by rw [State.leaveIdle_eq]
@[simp] theorem State.leaveIdle_tc (s : State) : s.leaveIdle.tc = s.tc := by rw [State.leaveIdle_eq]

theorem State.startsWithin_leaveIdle {x : Symbol} {t : Nat} : s.leaveIdle.startsWithin a x t ↔ s.startsWithin a x t := by
  rw [State.leaveIdle_eq]

/-- Over an attempt that meets no own BIT0 in its drive, the stretch brings no loss and marks no duplicate. -/
theorem State.stuckTested_of_silent (htx : s.fe.tx = some a) (h : s.underTest = some (.bit false) → s.startOff = true) :
    ∃ b : Attempt, (s.pulseTested 1600).fe.tx = some b ∧ b.source = a.source ∧ b.withdrawn = a.withdrawn ∧
      (s.pulseTested 1600).lif.line = s.lif.line ∧ (s.pulseTested 1600).fe.rx = s.fe.rx ∧
      (s.pulseTested 1600).tc = s.tc ∧ (s.pulseTested 1600).struck = s.struck := by
  cases hu : s.underTest with
  | none =>
    rw [State.pulseTested_of_none hu]
    exact ⟨a, htx, rfl, rfl, rfl, rfl, rfl, rfl⟩
  | some x =>
    by_cases hoff : s.startOff = true
    · rw [State.pulseTested_of_startOff hoff, State.startFault_eq, htx]
      exact ⟨_, rfl, rfl, rfl, rfl, rfl, rfl, rfl⟩
    · have hx : x ≠ .bit false := fun e => hoff (h (hu.trans (congrArg some e)))
      have hlate : x.window.2 < 1600 := by
        cases x with
        | bit b => cases b <;> decide
        | openSymbol => decide
        | haltSymbol => decide
        | slot => decide
      have hpulse : s.pulseTested 1600 = ({ s with lif := s.lif.dominantTo x.window.2 } : State).testFailed x true := by
        unfold State.pulseTested
        rw [hu]
        simp only
        rw [if_neg hoff, if_pos hlate, ← Lif.dominantFor_eq]
        rfl
      rw [hpulse, State.testFailed_silent (s := { s with lif := s.lif.dominantTo x.window.2 }) htx (.inl hx)]
      refine ⟨_, rfl, rfl, rfl, rfl, rfl, rfl, ?_⟩
      unfold State.struck
      rw [Lif.haltAfter_zero, Lif.stuckAt_dominantTo hlate.le]

/-- A BIT0 that was not asked for is off before its pulse. -/
theorem State.startOff_of_unasked {x : Symbol} (hu : s.underTest = some x) (htx : s.fe.tx = some a)
    (ha : ¬ s.askedFor a) : s.startOff = true := by
  have hasked : s.asked = false := Bool.eq_false_iff.2 fun e => ha ((State.asked_iff htx).1 e)
  simp [State.startOff, hu, hasked]

/-- LINE_STUCK over another station's frame in FOUNDING. -/
theorem State.stuckSeen_of_founding {r : Reception} (htx : s.fe.tx = none) (hs : s.tc.state = .founding)
    (hrx : s.fe.rx = some r) (hm : r.mark = false) (h1 : s.lif.line ≠ .busy .roll) (h2 : s.lif.line ≠ .busy .rest) :
    s.stuckSeen =
      ({ s.leaveIdle.struck with
        tc := { s.tc with state := .hailing }
        fe := { s.leaveIdle.struck.fe with hail := some 0, join := none }
        cu := { s.cu with log := [], logging := false } } : State).post { kind := .lineStuck } := by
  have hw := State.pulseTested_of_none (State.underTest_of_tx_none ((State.leaveIdle_tx s).trans htx)) 1600
  rw [State.stuckSeen_of hw]
  let v : State := { s.leaveIdle with lif := { s.leaveIdle.lif.dominantTo 1600 with drive := none } }
  have hvtx : v.fe.tx = none := (State.leaveIdle_tx s).trans htx
  have hvrx : v.fe.rx = some r := (State.leaveIdle_rx s).trans hrx
  have hvs : v.tc.state = .founding := by rw [show v.tc = s.tc from State.leaveIdle_tc s, hs]
  have hline : v.discardFrame.lif.inRoll = false := by
    rw [State.discardFrame_lif]
    exact Lif.inRoll_eq_false (State.leaveIdle_line_of h1 (by decide)) (State.leaveIdle_line_of h2 (by decide))
  change ((v.attemptFailed.discardFrame.cutRoll).post _).setLine .stuck = _
  rw [State.attemptFailed_of_none hvtx, State.cutRoll_of_not hline, State.discardFrame_of_founding hvrx hvs hm hvtx]
  have hfe : ({ v.fe with rx := none, hold := true, hail := some 0, join := none } : Fe) =
      { s.leaveIdle.struck.fe with hail := some 0, join := none } := by
    have hhold : (s.leaveIdle.fe.hold || s.leaveIdle.fe.rx.isSome) = true := by
      rw [State.leaveIdle_rx, hrx]
      exact Bool.or_true _
    simp only [State.struck, hhold]
    exact congrArg (fun x : Option Attempt =>
      ({ s.leaveIdle.fe with rx := none, tx := x, hold := true, hail := some 0, join := none } : Fe)) hvtx
  rw [hfe, show v.tc = s.tc from State.leaveIdle_tc s, show v.cu = s.cu from by simp [v, State.leaveIdle_eq]]
  rfl

end

/-- Settles O40: LINE_STUCK in each line state, by what the stretch does to an attempt, and LINE_CLEAR. -/
theorem stuckAndClear : Obligations.StuckAndClear := by
  intro s hr stuck posted
  refine ⟨fun h0 h1 h2 => ?_, fun hl htx hrx => ?_, fun hl => ⟨?_, fun hf => ?_, fun hp hlow => ?_⟩⟩
  · intro t
    have hexec := exec_lineStuck hr h0
    have ht : s.leaveIdle.struck = t := State.struck_leaveIdle s
    have hv1 : s.leaveIdle.lif.line ≠ .busy .roll := State.leaveIdle_line_of h1 (by decide)
    have hv2 : s.leaveIdle.lif.line ≠ .busy .rest := State.leaveIdle_line_of h2 (by decide)
    refine ⟨fun r htx hs hrx hm => ?_, fun hk => ⟨fun htx => ?_, fun a htx => ⟨fun hsilent => ?_,
      fun r hrx hf hb hstart => ⟨fun h6 hw => ?_, fun h6 hs => ?_⟩⟩⟩⟩
    · rw [hexec, State.stuckSeen_of_founding htx hs hrx hm h1 h2, ht]
      rfl
    all_goals
      have hk' : ∀ r, s.leaveIdle.fe.rx = some r → s.leaveIdle.tc.state ≠ .founding ∨ r.mark = true := fun r hr' => by
        rw [State.leaveIdle_rx] at hr'
        rw [State.leaveIdle_tc]
        exact (em (s.tc.state = .founding)).symm.imp id fun hs => hk hs r hr'
    · have hw := State.pulseTested_of_none (State.underTest_of_tx_none ((State.leaveIdle_tx s).trans htx)) 1600
      rw [hexec, State.stuckSeen_of_quiet hw (by simp [htx]) hv1 hv2 hk', ht]
      rfl
    · obtain ⟨b, hb, hsrc, hwd, hline, hrx, htc, hstruck⟩ :=
        State.stuckTested_of_silent (s := s.leaveIdle) ((State.leaveIdle_tx s).trans htx) fun hu => by
          obtain ⟨c, hc, hcf, hcx⟩ := State.underTest_eq_some_iff.1 hu
          obtain rfl := Option.some.inj (htx.symm.trans ((State.leaveIdle_tx s).symm.trans hc))
          refine State.startOff_of_unasked hu hc fun ha => ?_
          unfold State.compares at hcx
          unfold State.askedFor at ha
          rw [State.leaveIdle_rx] at hcx ha
          cases hrx : s.fe.rx with
          | none => simp [hrx] at hcx
          | some r =>
            simp only [hrx] at hcx
            obtain ⟨b, hb, hxb⟩ := hcx
            obtain rfl := Symbol.bit.inj hxb
            rcases hsilent r hrx with h | h | h
            · simp [hcf] at h
            · exact h hb
            · exact absurd (ha r hrx) (by omega)
      rw [← hline] at hv1 hv2
      rw [← hrx, ← htc] at hk'
      refine ⟨fun hw => ?_, fun hw => ⟨t.reportTry a.source, State.tried_reportTry (t := t) rfl _, ?_⟩⟩
      · rw [hexec, State.stuckSeen_of_quiet rfl ?_ hv1 hv2 hk', hstruck, ht]
        · rfl
        · intro c hc
          obtain rfl := Option.some.inj (hb.symm.trans hc)
          exact hwd.trans hw
      · rw [hexec, State.stuckSeen_of_tried rfl hb (hwd.trans hw) hv1 hv2 hk', hstruck, hsrc, ht]
        rfl
    all_goals
      have htx' : s.leaveIdle.fe.tx = some a := (State.leaveIdle_tx s).trans htx
      have hrx' : s.leaveIdle.fe.rx = some r := (State.leaveIdle_rx s).trans hrx
      have hlate := State.pulseTested_of_late (len := 1600) htx' hf (State.compares_bit hrx' hb)
        (State.startsWithin_leaveIdle.2 hstart) (by decide)
    · have htest := State.testFailed_suspected
        (s := { s.leaveIdle with lif := s.leaveIdle.lif.dominantTo (Symbol.bit false).window.2 }) htx' hrx' h6
      have hstruck : (State.struck
          { s.leaveIdle with
            hp := s.leaveIdle.hp.post { kind := .duplicateSuspect, station := some s.leaveIdle.self }
            lif := (s.leaveIdle.lif.dominantTo (Symbol.bit false).window.2).haltAfter 0
            fe := { s.leaveIdle.fe with tx := some { a with faulted := true } } }) =
          { t with hp := s.hp.post { kind := .duplicateSuspect, station := some s.self } } := by
        rw [← ht]
        unfold State.struck
        rw [Lif.haltAfter_zero, Lif.stuckAt_dominantTo (by decide)]
        simp only [State.leaveIdle_eq]
        rfl
      refine ⟨_, State.tried_reportTry (t := { t with hp := _ }) rfl _, ?_⟩
      rw [hexec, State.stuckSeen_of_tried (hlate.trans htest) rfl hw hv1 hv2 hk']
      exact congrArg (fun u : State => Host.Outcome.next ((u.reportTry a.source).post { kind := .lineStuck })) hstruck
    · have htest := State.testFailed_lost
        (s := { s.leaveIdle with lif := s.leaveIdle.lif.dominantTo (Symbol.bit false).window.2 }) hrx' h6
      have hkept : ∀ q : Reception, some { r with mark := false } = some q →
          s.leaveIdle.tc.state ≠ .founding ∨ q.mark = true := fun _ _ => .inl (by rwa [State.leaveIdle_tc])
      rw [hexec, State.stuckSeen_of_quiet (hlate.trans htest) (fun _ h => nomatch h) hv1 hv2 hkept]
      have hstruck : (State.struck
          { s.leaveIdle with
            lif := (s.leaveIdle.lif.dominantTo (Symbol.bit false).window.2).ownHalt
            fe := { s.leaveIdle.fe with tx := none, rx := some { r with mark := false } }
            ru := { s.leaveIdle.ru with
              queue := s.leaveIdle.ru.queue.map fun q => { q with onLine := false }
              touchOnLine := false } }) =
          { t with
            ru := { s.ru with queue := s.ru.queue.map fun q => { q with onLine := false }, touchOnLine := false } } := by
        have hlif : ((s.leaveIdle.lif.dominantTo (Symbol.bit false).window.2).ownHalt).stuckAt = s.leaveIdle.lif.stuckAt :=
          Lif.stuckAt_dominantTo (by decide) _ _
        rw [← ht]
        unfold State.struck
        rw [hlif, hrx']
        simp only [State.leaveIdle_eq]
        rfl
      exact congrArg (fun u : State => Host.Outcome.next (u.post { kind := .lineStuck })) hstruck
  · obtain ⟨u, hu, -, -, -, -, hcut⟩ := State.cutRoll_unreadable (s := s) hr htx
    refine ⟨u, hu, ?_⟩
    have hidle : s.leaveIdle = s := State.leaveIdle_of_not (by rcases hl with hl | hl <;> simp [hl])
    have hw : s.leaveIdle.pulseTested 1600 = s := by
      rw [hidle, State.pulseTested_of_none (State.underTest_of_tx_none htx)]
    let l : Lif := { s.lif.dominantTo 1600 with drive := none }
    have hquiet : ({ s with lif := l } : State).attemptFailed.discardFrame = { s with lif := l } := by
      rw [State.attemptFailed_of_none (s := { s with lif := l }) htx, State.discardFrame_of_none (s := { s with lif := l }) hrx]
    rw [exec_lineStuck hr (by rcases hl with hl | hl <;> simp [hl]), State.stuckSeen_of hw, hquiet, hcut l hl]
    rfl
  · change execLineStuck s = _
    rw [execLineStuck, live_of_high hr, if_pos hl, ← Lif.dominantFor_eq]
    rfl
  · have hcleared : s.stuckCleared =
        ({ s with
          lif := (s.lif.edge false).lastingTo 1920
          hp := s.hp.post { kind := .lineClear }
          fe := { s.fe with hold := true } } : State).idled :=
      State.lineIdle_of_unfaulted (s := (((s.onLif fun l => (l.edge false).lastingTo 1920).post _).setHold)) hf
    have hlif : ({ (s.lif.edge false).lastingTo 1920 with line := .idle } : Lif) =
        { s.lif.later (if s.lif.low then 1920 else 1920 - s.lif.lasted) with
          line := .idle, low := false, lasted := if s.lif.low then 1920 else max s.lif.lasted 1920 } := by
      rw [Lif.lastingTo, Lif.pass_eq_later]
      cases hlow : s.lif.low
      · simp [Lif.edge, Lif.later, hlow]
        omega
      · simp [Lif.edge, Lif.later, hlow]
    rw [exec_lineClear hr hl, hcleared]
    exact congrArg (fun l : Lif => Host.Outcome.next
      ({ s with
        lif := l
        hp := s.hp.post { kind := .lineClear }
        fe := { s.fe with hold := true, yieldTimer := some 0 } } : State)) hlif
  · have hcount : s.countQuantum.lif = s.lif.later 40 := by
      rw [← Lif.pass_eq_later]
      unfold State.countQuantum
      rw [State.quietPassed_of_none (State.pulseDue_of_low hlow)]
      rfl
    have hdue : s.countQuantum.lineDue = false := by
      unfold State.lineDue
      rw [hcount]
      simp [Lif.later, hlow, hl]
    refine ⟨_, stepCarriesOutTheFrontCommand.2 s hp, ?_⟩
    rw [State.tick_of_timer hr hdue, ← hcount]
    exact congrArg (fun v => v.1) s.countQuantum.fireTimer_lineView

end Sys2Proof.Machine
end

section
/-! SUPPORT. HALT and the halt-rest: what a HALT ends, by the state of the line and by what its pulse does to an attempt
(O38). -/

namespace Sys2Proof.Machine

/-! ### The line at a HALT (R153) -/

/-- The Line Interface in the halt-rest. -/
def Lif.resting (l : Lif) : Lif := { l.ownHalt with line := .busy .haltRest }

/-- The state at a HALT, before the end of an attempt is reported. -/
def State.halted (s : State) : State :=
  { s with
    lif := s.lif.resting
    fe := { s.fe with
      rx := none
      tx := none
      hold := true
      yieldTimer := if s.lif.line = .idle then none else s.fe.yieldTimer } }

section
variable {s : State}

theorem State.inRoll_leaveIdle (h1 : s.lif.line ≠ .busy .roll) (h2 : s.lif.line ≠ .busy .rest) :
    s.leaveIdle.lif.inRoll = false :=
  Lif.inRoll_eq_false (State.leaveIdle_line_of h1 (by decide)) (State.leaveIdle_line_of h2 (by decide))

/-- A HALT outside the roll. -/
theorem State.haltSeen_of_noRoll (h1 : s.lif.line ≠ .busy .roll) (h2 : s.lif.line ≠ .busy .rest) :
    s.haltSeen =
      (((s.leaveIdle.discardFrame.attemptFailed).setLine (.busy .haltRest)).onLif Lif.haltAlone).setHold := by
  unfold State.haltSeen
  rw [State.cutRoll_of_not (State.inRoll_leaveIdle h1 h2)]

theorem State.discardFrame_leaveIdle (hk : ∀ r, s.fe.rx = some r → s.tc.state ≠ .founding ∨ r.mark = true) :
    s.leaveIdle.discardFrame =
      { s with
        lif := { s.lif with line := if s.lif.line = .idle then .busy .pulse else s.lif.line }
        fe := { s.fe with
          rx := none
          hold := s.fe.hold || s.fe.rx.isSome
          yieldTimer := if s.lif.line = .idle then none else s.fe.yieldTimer } } := by
  rw [State.discardFrame_kept (s := s.leaveIdle) (by simpa using hk), State.leaveIdle_eq]

/-- A HALT with no attempt whose end is reported to a source. -/
theorem State.haltSeen_of_quiet (h1 : s.lif.line ≠ .busy .roll) (h2 : s.lif.line ≠ .busy .rest)
    (htx : ∀ a, s.fe.tx = some a → a.withdrawn = true)
    (hk : ∀ r, s.fe.rx = some r → s.tc.state ≠ .founding ∨ r.mark = true) : s.haltSeen = s.halted := by
  have hend := State.attemptFailed_of_quiet (s := s.leaveIdle.discardFrame)
    (by rw [State.discardFrame_leaveIdle hk]; exact htx)
  rw [State.haltSeen_of_noRoll h1 h2, hend, State.discardFrame_leaveIdle hk, State.halted, Lif.resting,
    ← Lif.haltAlone_eq_ownHalt]
  rfl

/-- A HALT over an attempt: its end is a counted try at its source. -/
theorem State.haltSeen_of_tried {a : Attempt} (h1 : s.lif.line ≠ .busy .roll) (h2 : s.lif.line ≠ .busy .rest)
    (htx : s.fe.tx = some a) (hw : a.withdrawn = false)
    (hk : ∀ r, s.fe.rx = some r → s.tc.state ≠ .founding ∨ r.mark = true) :
    s.haltSeen = s.halted.reportTry a.source := by
  let v : State :=
    { s with
      lif := { s.lif with line := if s.lif.line = .idle then .busy .pulse else s.lif.line }
      fe := { s.fe with
        rx := none
        tx := none
        hold := s.fe.hold || s.fe.rx.isSome
        yieldTimer := if s.lif.line = .idle then none else s.fe.yieldTimer } }
  let F : Fe → Fe := fun f => { f with hold := true }
  have hF : Fe.Outer F :=
    ⟨fun src _ => by cases src <;> rfl, fun _ _ => rfl, fun _ _ => rfl, fun _ _ => rfl, fun _ _ => rfl⟩
  have hout : s.halted.reportTry a.source = (v.reportTry a.source).outer s.pins s.lif.resting F :=
    State.outer_reportTry hF a.source v
  have hre := State.reportTry_reframed a.source v
  have hpins : (v.reportTry a.source).pins = s.pins := by rw [hre]
  have hlif : (v.reportTry a.source).lif = v.lif := by rw [hre]
  have hend := State.attemptFailed_of_pending (s := s.leaveIdle.discardFrame) (a := a)
    (by rw [State.discardFrame_leaveIdle hk, htx]) hw
  rw [State.haltSeen_of_noRoll h1 h2, hend, State.discardFrame_leaveIdle hk, hout]
  change (((v.reportTry a.source).setLine _).onLif Lif.haltAlone).setHold = _
  have hfinal (u : State) (hu : u.lif = v.lif) (hup : u.pins = s.pins) :
      ((u.setLine (.busy .haltRest)).onLif Lif.haltAlone).setHold = u.outer s.pins s.lif.resting F := by
    simp only [State.setLine, State.setHold, State.onLif, State.onFe, State.outer, hu, ← hup, Lif.haltAlone_eq_ownHalt]
    rfl
  exact hfinal _ hlif hpins

/-- A HALT over another station's frame in FOUNDING. -/
theorem State.haltSeen_of_founding {r : Reception} (h1 : s.lif.line ≠ .busy .roll) (h2 : s.lif.line ≠ .busy .rest)
    (htx : s.fe.tx = none) (hs : s.tc.state = .founding) (hrx : s.fe.rx = some r) (hm : r.mark = false) :
    s.haltSeen =
      { s.halted with
        tc := { s.tc with state := .hailing }
        fe := { s.halted.fe with hail := some 0, join := none }
        cu := { s.cu with log := [], logging := false } } := by
  have htx' : s.leaveIdle.fe.tx = none := (State.leaveIdle_tx s).trans htx
  have hd := State.discardFrame_of_founding (s := s.leaveIdle) ((State.leaveIdle_rx s).trans hrx)
    (by rw [State.leaveIdle_tc, hs]) hm htx'
  have hend := State.attemptFailed_of_quiet (s := s.leaveIdle.discardFrame) fun a ha => by
    rw [hd] at ha
    exact absurd (ha.symm.trans htx') (by simp)
  rw [State.haltSeen_of_noRoll h1 h2, hend, hd, State.halted, Lif.resting, ← Lif.haltAlone_eq_ownHalt, State.leaveIdle_eq]
  rfl

end

/-! ### The command (R153) -/

section
variable {s w : State} {pulse : Stretch} {len : Nat}

theorem exec_halt (hr : s.pins.resetLow = false) (hp : Stretch.seen pulse = some len) (hlen : readPulse len = .halt) :
    exec (.halt pulse) s = .next (s.pulseEnded none len) := by
  have hread : s.lif.pulseRead (· == .halt) pulse = some len := by
    rw [Lif.pulseRead, Lif.pulseLength_of_seen hp]
    simp [hlen]
  change execHalt pulse s = _
  rw [execHalt, live_of_high hr, hread]

theorem State.pulseEnded_of_stuck (hl : s.lif.line = .stuck) (h5 : 5 ≤ len) (gap : Option Nat) :
    s.pulseEnded gap len = { s with lif := s.lif.heard len } := by
  unfold State.pulseEnded
  rw [hl, ← Lif.pulse_eq_heard]
  refine if_neg fun h => ?_
  rw [readPulse_eq_iff] at h
  exact absurd h (by simp only; omega)

theorem State.pulseEnded_of_roll (hl : s.lif.line = .busy .roll) (hlen : readPulse len = .halt) :
    s.pulseEnded none len = ({ s with lif := s.lif.heard len } : State).haltSeen := by
  unfold State.pulseEnded
  rw [hl, ← Lif.pulse_eq_heard]
  exact if_pos hlen

/-- A HALT pulse outside STUCK and the roll window, with what its sender's test found. -/
theorem State.pulseEnded_of_halt (h0 : s.lif.line ≠ .stuck) (h1 : s.lif.line ≠ .busy .roll) (hlen : readPulse len = .halt)
    (hw : s.pulseTested len = w) (hu : s.lif.line = .unsynced → w = s) :
    s.pulseEnded none len = ({ w with lif := w.lif.heard len } : State).haltSeen := by
  have hpassed : s.pulsePassed len = { w with lif := w.lif.heard len } := by
    unfold State.pulsePassed
    rw [hw, ← Lif.pulse_eq_heard]
    rfl
  cases hl : s.lif.line with
  | idle => rw [State.pulseEnded_of_start (.inl hl), State.startPulse, hlen, ← hpassed]
  | stuck => exact absurd hl h0
  | unsynced =>
    rw [State.pulseEnded_of_unsynced hl, State.unsyncedPulse, hlen, hu hl, ← Lif.pulse_eq_heard]
    rfl
  | busy phase =>
    cases phase with
    | roll => exact absurd hl h1
    | frame =>
      rw [← hpassed]
      unfold State.pulseEnded
      rw [hl]
      simp only [State.framePulse, hlen]
    | pulse => rw [State.pulseEnded_of_start (.inr (.inl hl)), State.startPulse, hlen, ← hpassed]
    | rest => rw [State.pulseEnded_of_start (.inr (.inr (.inr hl))), State.startPulse, hlen, ← hpassed]
    | haltRest => rw [State.pulseEnded_of_start (.inr (.inr (.inl hl))), State.startPulse, hlen, ← hpassed]

end

/-! ### A pulse that runs past an earlier point -/

theorem Lif.later_later (m n : Nat) (l : Lif) : (l.later m).later n = l.later (m + n) := by
  cases hd : l.drive with
  | none => simp [Lif.later, hd, Nat.add_assoc]
  | some d =>
    by_cases h : m < d.left
    · have e : (n < d.left - m) = (m + n < d.left) := propext (by omega)
      simp [Lif.later, hd, h, e, Nat.add_assoc, Nat.sub_sub]
    · have e : ¬ m + n < d.left := by omega
      simp [Lif.later, hd, h, e, Nat.add_assoc]

/-- Dominant up to `n` and then on to `m`. -/
theorem Lif.dominantTo_dominantTo {m n : Nat} (h : n ≤ m) (l : Lif) : (l.dominantTo n).dominantTo m = l.dominantTo m := by
  cases hlow : l.low with
  | false =>
    have h1 : l.dominantTo n = { l.later n with low := true, lasted := n } := by simp [Lif.dominantTo, hlow]
    have h2 : l.dominantTo m = { l.later m with low := true, lasted := m } := by simp [Lif.dominantTo, hlow]
    have h3 : (l.later n).later (m - n) = l.later m := by rw [Lif.later_later, Nat.add_sub_cancel' h]
    have h4 : (l.dominantTo n).dominantTo m = { (l.later n).later (m - n) with low := true, lasted := max n m } := by
      rw [h1]
      rfl
    rw [h4, h3, h2, Nat.max_eq_right h]
  | true =>
    have h1 : l.dominantTo n = { l.later (n - l.lasted) with low := true, lasted := max l.lasted n } := by
      simp [Lif.dominantTo, hlow]
    have h2 : l.dominantTo m = { l.later (m - l.lasted) with low := true, lasted := max l.lasted m } := by
      simp [Lif.dominantTo, hlow]
    have h3 : (l.later (n - l.lasted)).later (m - max l.lasted n) = l.later (m - l.lasted) := by
      rw [Lif.later_later, show n - l.lasted + (m - max l.lasted n) = m - l.lasted by omega]
    have h4 : (l.dominantTo n).dominantTo m =
        { (l.later (n - l.lasted)).later (m - max l.lasted n) with low := true, lasted := max (max l.lasted n) m } := by
      rw [h1]
      rfl
    rw [h4, h3, h2, Nat.max_assoc, Nat.max_eq_right h]

theorem Lif.heard_dominantTo {m n : Nat} (h : n ≤ m) (l : Lif) : (l.dominantTo n).heard m = l.heard m := by
  unfold Lif.heard
  rw [Lif.dominantTo_dominantTo h]

theorem Lif.later_ownHalt_drive (t : Nat) (l : Lif) : (l.ownHalt.later t).ownHalt.drive = (l.later t).ownHalt.drive := by
  cases hd : l.drive with
  | none => simp [Lif.ownHalt, Lif.later, hd]
  | some d =>
    by_cases hs : d.symbol = .haltSymbol
    · simp [Lif.ownHalt, Lif.later, hd, hs]
    · by_cases ht : t < d.left <;> simp [Lif.ownHalt, Lif.later, hd, hs, ht]

/-- A drive that is none of the own HALT leaves no trace in the halt-rest. -/
theorem Lif.resting_ownHalt (n : Nat) (l : Lif) : (l.ownHalt.heard n).resting = (l.heard n).resting := by
  have hd (t : Nat) := Lif.later_ownHalt_drive t l
  exact congrArg (fun d : Option Drive => ({ (l.heard n) with line := .busy .haltRest, drive := d } : Lif))
    (hd (if l.low then n - l.lasted else n))

end Sys2Proof.Machine
end

section
/-! SUPPORT. HALT by line state and source, and HALT_REST_END (O38). -/

namespace Sys2Proof.Machine

/-- The symbol of an own OPEN or BIT1 that a pulse longer than `point` finds dominant past its second point. -/
theorem State.compares_of_point {s : State} {a : Attempt} {point : Nat}
    (h : (s.fe.rx = none ∧ s.lif.line = .busy .pulse ∧ point = 220) ∨
      (∃ r, s.fe.rx = some r ∧ a.bits[r.bits.length]? = some true ∧ s.lif.line = .busy .frame ∧ point = 100)) :
    ∃ x : Symbol, s.compares a x ∧ x.window.2 = point ∧ x ≠ .bit false ∧ s.lif.line ≠ .unsynced ∧ point < 400 := by
  rcases h with ⟨hrx, hl, rfl⟩ | ⟨r, hrx, hb, hl, rfl⟩
  · exact ⟨.openSymbol, State.compares_open hrx hl, rfl, by decide, by simp [hl], by decide⟩
  · exact ⟨.bit true, State.compares_bit hrx hb, rfl, by decide, by simp [hl], by decide⟩

section
variable {s w : State} {pulse : Stretch} {len : Nat}

/-- A HALT pulse in the roll window or the REST, with nothing of the own on the line. -/
theorem exec_halt_of_roll (hr : s.pins.resetLow = false) (hp : Stretch.seen pulse = some len) (hlen : readPulse len = .halt)
    (hl : s.lif.line = .busy .roll ∨ s.lif.line = .busy .rest) (htx : s.fe.tx = none) (hrx : s.fe.rx = none) :
    ∃ u, s.readsUnreadable u ∧
      exec (.halt pulse) s =
        .next { u with
          lif := (s.lif.heard len).resting
          fe := { u.fe with hold := true, yieldTimer := s.fe.yieldTimer } } := by
  obtain ⟨u, hu, hutx, -, hurx, -, hcut⟩ := State.cutRoll_unreadable (s := s) hr htx
  refine ⟨u, hu, ?_⟩
  have hended : s.pulseEnded none len = ({ s with lif := s.lif.heard len } : State).haltSeen := by
    rcases hl with hl | hl
    · exact State.pulseEnded_of_roll hl hlen
    · exact State.pulseEnded_of_halt (by simp [hl]) (by simp [hl]) hlen
        (State.pulseTested_of_none (State.underTest_of_tx_none htx) len) fun _ => rfl
  have hidle : ({ s with lif := s.lif.heard len } : State).leaveIdle = { s with lif := s.lif.heard len } :=
    State.leaveIdle_of_not (by rcases hl with hl | hl <;> simp [Lif.heard, Lif.dominantTo, Lif.later, hl])
  have hquiet : ({ u with lif := s.lif.heard len, fe := { u.fe with yieldTimer := s.fe.yieldTimer } } :
      State).discardFrame.attemptFailed =
        { u with lif := s.lif.heard len, fe := { u.fe with yieldTimer := s.fe.yieldTimer } } := by
    rw [State.discardFrame_of_none (s := { u with
        lif := s.lif.heard len
        fe := { u.fe with yieldTimer := s.fe.yieldTimer } }) (hurx.trans hrx)]
    exact State.attemptFailed_of_none hutx
  rw [exec_halt hr hp hlen, hended]
  unfold State.haltSeen
  rw [hidle, hcut (s.lif.heard len) hl, hquiet, Lif.resting, ← Lif.haltAlone_eq_ownHalt]
  rfl

/-- A HALT pulse after which no attempt is left whose end is reported to a source. -/
theorem exec_halt_of_quiet (hr : s.pins.resetLow = false) (hp : Stretch.seen pulse = some len)
    (hlen : readPulse len = .halt) (h0 : s.lif.line ≠ .stuck) (h1 : s.lif.line ≠ .busy .roll)
    (hw : s.pulseTested len = w) (hu : s.lif.line = .unsynced → w = s) (hw1 : w.lif.line ≠ .busy .roll)
    (hw2 : w.lif.line ≠ .busy .rest) (htx : ∀ a, w.fe.tx = some a → a.withdrawn = true)
    (hk : ∀ r, w.fe.rx = some r → w.tc.state ≠ .founding ∨ r.mark = true) :
    exec (.halt pulse) s = .next ({ w with lif := w.lif.heard len } : State).halted := by
  rw [exec_halt hr hp hlen, State.pulseEnded_of_halt h0 h1 hlen hw hu,
    State.haltSeen_of_quiet (s := { w with lif := w.lif.heard len }) hw1 hw2 htx hk]

/-- A HALT pulse over an attempt: a counted try at its source. -/
theorem exec_halt_of_tried {a : Attempt} (hr : s.pins.resetLow = false) (hp : Stretch.seen pulse = some len)
    (hlen : readPulse len = .halt) (h0 : s.lif.line ≠ .stuck) (h1 : s.lif.line ≠ .busy .roll)
    (hw : s.pulseTested len = w) (hu : s.lif.line = .unsynced → w = s) (hw1 : w.lif.line ≠ .busy .roll)
    (hw2 : w.lif.line ≠ .busy .rest) (htx : w.fe.tx = some a) (hwd : a.withdrawn = false)
    (hk : ∀ r, w.fe.rx = some r → w.tc.state ≠ .founding ∨ r.mark = true) :
    exec (.halt pulse) s = .next (({ w with lif := w.lif.heard len } : State).halted.reportTry a.source) := by
  rw [exec_halt hr hp hlen, State.pulseEnded_of_halt h0 h1 hlen hw hu,
    State.haltSeen_of_tried (s := { w with lif := w.lif.heard len }) hw1 hw2 htx hwd hk]

/-- A HALT pulse over another station's frame in FOUNDING. -/
theorem exec_halt_of_founding {r : Reception} (hr : s.pins.resetLow = false) (hp : Stretch.seen pulse = some len)
    (hlen : readPulse len = .halt) (h0 : s.lif.line ≠ .stuck) (h1 : s.lif.line ≠ .busy .roll)
    (hw : s.pulseTested len = w) (hu : s.lif.line = .unsynced → w = s) (hw1 : w.lif.line ≠ .busy .roll)
    (hw2 : w.lif.line ≠ .busy .rest) (htx : w.fe.tx = none) (hs : w.tc.state = .founding) (hrx : w.fe.rx = some r)
    (hm : r.mark = false) :
    exec (.halt pulse) s =
      .next { ({ w with lif := w.lif.heard len } : State).halted with
        tc := { w.tc with state := .hailing }
        fe := { ({ w with lif := w.lif.heard len } : State).halted.fe with hail := some 0, join := none }
        cu := { w.cu with log := [], logging := false } } := by
  rw [exec_halt hr hp hlen, State.pulseEnded_of_halt h0 h1 hlen hw hu,
    State.haltSeen_of_founding (s := { w with lif := w.lif.heard len }) hw1 hw2 htx hs hrx hm]

/-- A sender whose frame sends no more compares nothing. -/
theorem State.underTest_of_over {a : Attempt} (htx : s.fe.tx = some a)
    (h : match s.fe.rx with
      | none => a.faulted = true ∨ s.lif.line ≠ .busy .pulse
      | some r => a.faulted = true ∨ a.bits.length ≤ r.bits.length) : s.underTest = none := by
  refine State.underTest_eq_none fun c x hc hcf hx => ?_
  obtain rfl := Option.some.inj (htx.symm.trans hc)
  unfold State.compares at hx
  cases hrx : s.fe.rx with
  | none =>
    simp only [hrx] at hx h
    rcases h with h | h
    · simp [hcf] at h
    · exact h hx.1
  | some r =>
    simp only [hrx] at hx h
    obtain ⟨b, hb, -⟩ := hx
    obtain ⟨hlt, -⟩ := List.getElem?_eq_some_iff.1 hb
    rcases h with h | h
    · simp [hcf] at h
    · omega

/-- The halt-rest after a loss found in the same pulse. -/
theorem Lif.resting_lost {n : Nat} (h : n ≤ len) (l : Lif) :
    (((l.dominantTo n).ownHalt).heard len).resting = (l.heard len).resting := by
  rw [Lif.resting_ownHalt, Lif.heard_dominantTo h]

end

section
variable {s : State} {pulse : Stretch} {len : Nat} {a : Attempt} {r : Reception}

/-- A HALT pulse over an own BIT0 of the arbitration field: the attempt ends with no try. -/
theorem exec_halt_of_lost (hr : s.pins.resetLow = false) (hp : Stretch.seen pulse = some len)
    (hlen : readPulse len = .halt) (htx : s.fe.tx = some a) (hf : a.faulted = false) (hrx : s.fe.rx = some r)
    (hl : s.lif.line = .busy .frame) (hb : a.bits[r.bits.length]? = some false) (hs : s.startsWithin a (.bit false) 0)
    (h6 : r.bits.length < 6) :
    let lost : State :=
      { s with
        lif := (s.lif.heard len).resting
        fe := { s.fe with
          rx := none
          tx := none
          hold := true
          yieldTimer := if s.lif.line = .idle then none else s.fe.yieldTimer }
        ru := { s.ru with
          queue := s.ru.queue.map fun q => { q with onLine := false }
          touchOnLine := false } }
    (s.tc.state ≠ .founding → exec (.halt pulse) s = .next lost) ∧
    (s.tc.state = .founding →
      exec (.halt pulse) s =
        .next { lost with
          tc := { s.tc with state := .hailing }
          fe := { lost.fe with hail := some 0, join := none }
          cu := { s.cu with log := [], logging := false } }) := by
  intro lost
  have h400 := ((readPulse_eq_iff _ _).1 hlen).1
  have hne (line : LineState) (h : line ≠ .busy .frame) : s.lif.line ≠ line := by rw [hl]; exact h.symm
  have hlate := State.pulseTested_of_late (len := len) htx hf (State.compares_bit hrx hb) hs (show 60 < len by omega)
  have htest := State.testFailed_lost (s := { s with lif := s.lif.dominantTo 60 }) hrx h6
  have hlif := Lif.resting_lost (n := 60) (show 60 ≤ len by omega) s.lif
  have hlost : ({ s with
      lif := ((s.lif.dominantTo 60).ownHalt).heard len
      fe := { s.fe with tx := none, rx := some { r with mark := false } }
      ru := lost.ru } : State).halted = lost := by
    unfold State.halted
    rw [hlif]
    rfl
  refine ⟨fun hfound => ?_, fun hfound => ?_⟩
  · rw [exec_halt_of_quiet hr hp hlen (hne _ (by decide)) (hne _ (by decide)) (hlate.trans htest)
      (fun h => absurd h (hne _ (by decide))) (hne _ (by decide)) (hne _ (by decide)) (fun _ h => nomatch h)
      fun _ _ => .inl hfound]
    exact congrArg Host.Outcome.next hlost
  · rw [exec_halt_of_founding hr hp hlen (hne _ (by decide)) (hne _ (by decide)) (hlate.trans htest)
      (fun h => absurd h (hne _ (by decide))) (hne _ (by decide)) (hne _ (by decide)) rfl hfound rfl rfl]
    exact congrArg (fun u : State => Host.Outcome.next ({ u with
      tc := { s.tc with state := .hailing }
      fe := { u.fe with hail := some 0, join := none }
      cu := { s.cu with log := [], logging := false } } : State)) hlost

end

/-- Settles O38: HALT by the state of the line and by what its pulse does to an attempt, and HALT_REST_END. -/
theorem haltsEndFramesAndAttempts : Obligations.HaltsEndFramesAndAttempts := by
  refine ⟨fun s pulse len hr hp h400 h1600 => ?_, fun s hr hl hlow hf => ?_⟩
  · intro rests t
    have hlen : readPulse len = .halt := (readPulse_eq_iff _ _).2 ⟨h400, h1600⟩
    refine ⟨fun hl => ?_, fun hl htx hrx => exec_halt_of_roll hr hp hlen hl htx hrx, fun h0 h1 h2 =>
      ⟨fun r htx hs hrx hm => ?_, fun hk => ?_, fun a r htx hf hrx hl hb hstart => ?_⟩⟩
    · rw [exec_halt hr hp hlen, State.pulseEnded_of_stuck hl (by omega)]
    · exact exec_halt_of_founding hr hp hlen h0 h1 (State.pulseTested_of_none (State.underTest_of_tx_none htx) len)
        (fun _ => rfl) h1 h2 htx hs hrx hm
    · have hkept : ∀ r, s.fe.rx = some r → s.tc.state ≠ .founding ∨ r.mark = true :=
        fun r hr' => (em (s.tc.state = .founding)).symm.imp id fun hs => hk hs r hr'
      refine ⟨fun htx => ?_, fun a htx hover => ?_, fun a point htx hf hw hpoint hstart => ?_,
        fun a r htx hf hw hrx hl hbits hasked => ?_⟩
      · exact exec_halt_of_quiet hr hp hlen h0 h1 (State.pulseTested_of_none (State.underTest_of_tx_none htx) len)
          (fun _ => rfl) h1 h2 (by simp [htx]) hkept
      · have htest := State.pulseTested_of_none (State.underTest_of_over htx hover) len
        refine ⟨fun hwd => ?_, fun hwd => ⟨_, exec_halt_of_tried hr hp hlen h0 h1 htest (fun _ => rfl) h1 h2 htx hwd hkept,
          State.tried_reportTry (t := t) rfl _⟩⟩
        refine exec_halt_of_quiet hr hp hlen h0 h1 htest (fun _ => rfl) h1 h2 (fun c hc => ?_) hkept
        obtain rfl := Option.some.inj (htx.symm.trans hc)
        exact hwd
      · intro faulted
        obtain ⟨x, hx, rfl, hne, hsync, hsmall⟩ := State.compares_of_point hpoint
        have hlate := State.pulseTested_of_late (len := len) htx hf hx (hstart x hx) (by omega)
        have htest := State.testFailed_silent (s := { s with lif := s.lif.dominantTo x.window.2 }) (late := true) htx
          (.inl hne)
        exact ⟨_, exec_halt_of_tried (a := { a with faulted := true }) hr hp hlen h0 h1 (hlate.trans htest)
          (fun h => absurd h hsync) h1 h2 rfl hw hkept, State.tried_reportTry (t := faulted) rfl _⟩
      · intro missed
        have hx : s.compares a (.bit a.bits[r.bits.length]) := State.compares_bit hrx (List.getElem?_eq_getElem hbits)
        have htest := State.pulseTested_of_unasked htx hf hx (fun h => absurd (h r hrx) (by omega)) len
        exact ⟨_, exec_halt_of_tried (a := a.missing) hr hp hlen h0 h1 htest (fun h => by simp [hl] at h) h1 h2 rfl hw
          hkept, State.tried_reportTry (t := missed) rfl _⟩
    · intro lost suspected
      refine ⟨fun h6 hs => ?_, fun h6 hs => ?_, fun h6 hk => ?_⟩
      · exact (exec_halt_of_lost hr hp hlen htx hf hrx hl hb hstart h6).1 hs
      · exact (exec_halt_of_lost hr hp hlen htx hf hrx hl hb hstart h6).2 hs
      · have hkept : ∀ q, s.fe.rx = some q → s.tc.state ≠ .founding ∨ q.mark = true := fun q hq => by
          obtain rfl := Option.some.inj (hrx.symm.trans hq)
          exact (em (s.tc.state = .founding)).symm.imp id hk
        have hlate := State.pulseTested_of_late (len := len) htx hf (State.compares_bit hrx hb) hstart
          (show 60 < len by omega)
        have htest := State.testFailed_suspected (s := { s with lif := s.lif.dominantTo 60 }) htx hrx h6
        have hsync (h : s.lif.line = .unsynced) : False := absurd (hl.symm.trans h) (by decide)
        refine ⟨fun hwd => ?_, fun hwd => ⟨_, exec_halt_of_tried (a := { a with faulted := true }) hr hp hlen h0 h1
          (hlate.trans htest) (fun h => (hsync h).elim) h1 h2 rfl hwd hkept,
          State.tried_reportTry (t := suspected) rfl _⟩⟩
        refine exec_halt_of_quiet hr hp hlen h0 h1 (hlate.trans htest) (fun h => (hsync h).elim) h1 h2 (fun c hc => ?_)
          hkept
        obtain rfl := Option.some.inj hc
        exact hwd
  · change execHaltRestEnd s = _
    rw [execHaltRestEnd, live_of_high hr, if_pos ⟨hl, hlow⟩]
    have hidled := State.lineIdle_of_unfaulted (s := s.onLif (Lif.lastingTo 240)) hf
    rw [hidled, State.idled, State.onLif]
    simp only [Lif.lastingTo, Lif.pass_eq_later]

end Sys2Proof.Machine
end

section
/-! SUPPORT. DAMAGE, SYNC_QUIET and QUIET_COUNT_RESET (O39). -/

namespace Sys2Proof.Machine

/-! ### The line at damage (R152, R164) -/

/-- The state at damage with the Line Interface `l`, a sender's fault apart. -/
def State.hit (l : Lif) (s : State) : State :=
  { s with
    lif := { l with line := .unsynced }
    fe := { s.fe with
      rx := none
      hold := s.fe.hold || s.fe.rx.isSome
      yieldTimer := if s.lif.line = .idle then none else s.fe.yieldTimer } }

section
variable {s : State} {a : Attempt}

/-- Damage outside the roll. -/
theorem State.damageSeen_eq (h1 : s.lif.line ≠ .busy .roll) (h2 : s.lif.line ≠ .busy .rest)
    (hk : ∀ r, s.fe.rx = some r → s.tc.state ≠ .founding ∨ r.mark = true) :
    s.damageSeen = (s.hit s.lif).senderFault := by
  unfold State.damageSeen
  rw [State.cutRoll_of_not (State.inRoll_leaveIdle h1 h2), State.discardFrame_leaveIdle hk]
  rfl

theorem State.damageSeen_of_still (h1 : s.lif.line ≠ .busy .roll) (h2 : s.lif.line ≠ .busy .rest)
    (hk : ∀ r, s.fe.rx = some r → s.tc.state ≠ .founding ∨ r.mark = true)
    (hf : ∀ a, s.fe.tx = some a → a.faulted = true) : s.damageSeen = s.hit s.lif := by
  rw [State.damageSeen_eq h1 h2 hk]
  exact State.senderFault_of_none (s := s.hit s.lif) (State.sending_of_faulted hf)

theorem State.damageSeen_of_sender (h1 : s.lif.line ≠ .busy .roll) (h2 : s.lif.line ≠ .busy .rest)
    (hk : ∀ r, s.fe.rx = some r → s.tc.state ≠ .founding ∨ r.mark = true) (htx : s.fe.tx = some a)
    (hf : a.faulted = false) :
    s.damageSeen =
      { s.hit (s.lif.haltAfter 0) with
        fe := { (s.hit s.lif).fe with tx := some { a with faulted := true } } } := by
  rw [State.damageSeen_eq h1 h2 hk, State.senderFault_of_unfaulted (s := s.hit s.lif) htx hf]
  rfl

end

/-! ### The command (R152) -/

section
variable {s : State} {gap pulse : Stretch} {g len : Nat}

theorem exec_damage_stretch (hr : s.pins.resetLow = false) (hg : Stretch.seen gap = some g)
    (hl : s.lif.line = .busy .frame) (hd : g < 20 ∨ (60 < g ∧ g < 140)) :
    exec (.damage (.stretch gap)) s = .next (s.gapDamaged g) := by
  change execDamage (.stretch gap) s = _
  rw [execDamage, live_of_high hr]
  simp only [hg]
  exact congrArg Host.Outcome.next (if_pos ⟨hl, (isGapDamage_iff g).2 hd⟩)

theorem exec_damage_pulse (hr : s.pins.resetLow = false) (hg : Stretch.seen gap = some g)
    (hp : Stretch.seen pulse = some len) (hd : readsDamage s.lif.line g len = true) :
    exec (.damage (.pulse gap pulse)) s = .next (s.pulseEnded (some g) len) := by
  change execDamage (.pulse gap pulse) s = _
  rw [execDamage, live_of_high hr]
  simp only [hg, hp]
  exact congrArg Host.Outcome.next (if_pos hd)

/-- A length that has no place after a separation. -/
theorem readPulse_of_frameDamage (h : (5 ≤ len ∧ len < 20) ∨ (56 < len ∧ len < 64) ∨ (104 < len ∧ len < 400)) :
    readPulse len = .damage ∨ readPulse len = .openSymbol := by
  simp only [readPulse_eq_iff]
  omega

/-- A length that begins no frame and no halt-rest. -/
theorem readPulse_of_startDamage (h : (5 ≤ len ∧ len < 160) ∨ (240 < len ∧ len < 400)) :
    readPulse len = .damage ∨ ∃ b, readPulse len = .bit b := by
  rw [Bool.exists_bool]
  simp only [readPulse_eq_iff]
  omega

theorem State.framePulse_of_damage (h : readPulse len = .damage ∨ readPulse len = .openSymbol) :
    s.framePulse len = (s.pulsePassed len).damageSeen := by
  unfold State.framePulse
  rcases h with h | h <;> rw [h]

theorem State.startPulse_of_damage (h : readPulse len = .damage ∨ ∃ b, readPulse len = .bit b) :
    s.startPulse len = (s.pulsePassed len).damageSeen := by
  unfold State.startPulse
  rcases h with h | ⟨b, h⟩ <;> rw [h]

theorem State.unsyncedPulse_of_damage (h : readPulse len = .damage ∨ ∃ b, readPulse len = .bit b) :
    s.unsyncedPulse len = { s with lif := s.lif.heard len } := by
  unfold State.unsyncedPulse
  rw [← Lif.pulse_eq_heard]
  rcases h with h | ⟨b, h⟩ <;> rw [h] <;> rfl

/-- After a separation a pulse of those lengths is damage. -/
theorem readsDamage_of_frame (h : readPulse len = .damage ∨ readPulse len = .openSymbol) (hg : g < 140) :
    readsDamage (.busy .frame) g len = true := by
  rcases h with h | h <;> simp [readsDamage, h, hg]

theorem readsDamage_of_start {line : LineState}
    (hl : line = .idle ∨ line = .busy .pulse ∨ line = .busy .haltRest ∨ line = .busy .rest)
    (h : readPulse len = .damage ∨ ∃ b, readPulse len = .bit b) (g : Nat) : readsDamage line g len = true := by
  rcases hl with rfl | rfl | rfl | rfl <;> rcases h with h | ⟨b, h⟩ <;> simp [readsDamage, h]

/-- After a stretch that reads damage every pulse seen, short of STUCK, is an event of damage. -/
theorem readsDamage_of_gap (h5 : 5 ≤ len) (h1600 : len < 1600) (hg : g < 20 ∨ (60 < g ∧ g < 140)) :
    readsDamage (.busy .frame) g len = true := by
  have hgap : isGapDamage g = true := (isGapDamage_iff g).2 hg
  have h140 : g < 140 := by omega
  cases hlen : readPulse len with
  | unseen => exact absurd ((readPulse_eq_iff _ _).1 hlen) (by simp only; omega)
  | stuck => exact absurd ((readPulse_eq_iff _ _).1 hlen) (by simp only; omega)
  | _ => simp [readsDamage, hlen, hgap, h140]

end

/-! ### A pulse that reads damage, and the sender's tests on it -/

/-- The HALT of a fault found where a pulse ends counts from that end. -/
theorem Lif.heard_haltAfter (n : Nat) (l : Lif) :
    ((l.dominantTo n).haltAfter 0).heard n =
      { l.heard n with drive := some { symbol := .haltSymbol, left := 480 } } := by
  cases hlow : l.low <;>
    simp [Lif.haltAfter_zero, Lif.heard, Lif.dominantTo, Lif.later, hlow]

section
variable {s : State} {a : Attempt} {len : Nat}

theorem State.damagePulse_of_still (h1 : s.lif.line ≠ .busy .roll) (h2 : s.lif.line ≠ .busy .rest)
    (hk : ∀ r, s.fe.rx = some r → s.tc.state ≠ .founding ∨ r.mark = true)
    (hf : ∀ a, s.fe.tx = some a → a.faulted = true) :
    (s.pulsePassed len).damageSeen = s.hit (s.lif.heard len) := by
  rw [State.pulsePassed_of_tested (State.pulseTested_of_none (State.underTest_of_faulted hf) len)]
  exact State.damageSeen_of_still (s := { s with lif := s.lif.heard len }) h1 h2 hk hf

/-- A pulse of damage over an attempt that still compares: its fault is found where the pulse ends. -/
theorem State.damagePulse_of_sender (h1 : s.lif.line ≠ .busy .roll) (h2 : s.lif.line ≠ .busy .rest)
    (hk : ∀ r, s.fe.rx = some r → s.tc.state ≠ .founding ∨ r.mark = true) (htx : s.fe.tx = some a)
    (hf : a.faulted = false) (hx : ∀ x, s.compares a x → s.startsWithin a x 0 ∧ len ≤ x.window.2) :
    (s.pulsePassed len).damageSeen =
      { s.hit { s.lif.heard len with drive := some { symbol := .haltSymbol, left := 480 } } with
        fe := { (s.hit s.lif).fe with tx := some { a with faulted := true } } } := by
  by_cases hshort : ∃ x, s.compares a x ∧ len < x.window.1
  · obtain ⟨x, hcx, hlt⟩ := hshort
    obtain ⟨hstart, hle⟩ := hx x hcx
    have htest := (State.pulseTested_of_early htx hf hcx hstart hle hlt).trans
      (State.testFailed_silent (s := { s with lif := s.lif.dominantTo len }) htx (.inr rfl))
    have hpassed : s.pulsePassed len =
        { s with
          lif := { s.lif.heard len with drive := some { symbol := .haltSymbol, left := 480 } }
          fe := { s.fe with tx := some { a with faulted := true } } } := by
      unfold State.pulsePassed
      rw [htest, ← Lif.heard_haltAfter, ← Lif.pulse_eq_heard]
      rfl
    rw [hpassed]
    exact State.damageSeen_of_still (s := { s with
      lif := { s.lif.heard len with drive := some { symbol := .haltSymbol, left := 480 } }
      fe := { s.fe with tx := some { a with faulted := true } } }) h1 h2 hk fun c hc => by
        obtain rfl := Option.some.inj hc
        rfl
  · have htest : s.pulseTested len = s := State.pulseTested_of_forall fun c x hc _ hcx => by
      obtain rfl := Option.some.inj (htx.symm.trans hc)
      obtain ⟨hstart, hle⟩ := hx x hcx
      exact ⟨hstart, not_lt.1 fun h => hshort ⟨x, hcx, h⟩, hle⟩
    rw [State.pulsePassed_of_tested htest]
    exact State.damageSeen_of_sender (s := { s with lif := s.lif.heard len }) h1 h2 hk htx hf

theorem State.hit_gapHeard (g : Nat) (l : Lif) (s : State) :
    ({ s with lif := s.lif.gapHeard g } : State).hit l = s.hit l := by
  unfold State.hit
  simp only [Lif.gapHeard_line]

end

end Sys2Proof.Machine
end

section
/-! SUPPORT. DAMAGE by line state and sender, SYNC_QUIET and QUIET_COUNT_RESET (O39). -/

namespace Sys2Proof.Machine

section
variable {s : State} {a : Attempt} {len g : Nat}

/-- A pulse that starts within the drive of the symbol compared and is no longer than its second point. -/
theorem State.early_iff {t : Nat} (h : ∀ x, s.compares a x → s.startsWithin a x t)
    (hlen : match s.fe.rx with
      | none => len ≤ 220
      | some r => ∀ b, a.bits[r.bits.length]? = some b → len ≤ (if b then 100 else 60)) :
    ∀ x, s.compares a x → s.startsWithin a x t ∧ len ≤ x.window.2 := by
  refine fun x hx => ⟨h x hx, ?_⟩
  unfold State.compares at hx
  cases hrx : s.fe.rx with
  | none =>
    simp only [hrx] at hx hlen
    obtain ⟨-, rfl⟩ := hx
    exact hlen
  | some r =>
    simp only [hrx] at hx hlen
    obtain ⟨b, hb, rfl⟩ := hx
    have := hlen b hb
    rw [Symbol.window_bit]
    cases b <;> exact this

theorem State.startsWithin_gapHeard {x : Symbol} (h : s.askedFor a) :
    ({ s with lif := s.lif.gapHeard g } : State).startsWithin a x 0 :=
  ⟨h, State.not_driveOver_of_low (s := { s with lif := s.lif.gapHeard g }) (Lif.gapHeard_low g s.lif)⟩

/-- A stretch that reads damage, at a station that compares nothing. -/
theorem State.gapDamaged_of_still (hl : s.lif.line = .busy .frame)
    (hk : ∀ r, s.fe.rx = some r → s.tc.state ≠ .founding ∨ r.mark = true)
    (hf : ∀ a, s.fe.tx = some a → a.faulted = true) : s.gapDamaged g = s.hit (s.lif.gapHeard g) := by
  have hpassed : s.stretchPassed g = { s with lif := s.lif.gapHeard g } :=
    State.stretchPassed_of_forall fun b x hb hbf _ => by simp [hf b hb] at hbf
  have hline (line : LineState) (h : line ≠ .busy .frame) : (s.lif.gapHeard g).line ≠ line := by
    rw [Lif.gapHeard_line, hl]
    exact h.symm
  unfold State.gapDamaged
  rw [hpassed, State.damageSeen_of_still (s := { s with lif := s.lif.gapHeard g }) (hline _ (by decide))
    (hline _ (by decide)) hk hf, State.hit_gapHeard]

/-- A stretch that reads damage, over an attempt that still compares. -/
theorem State.gapDamaged_of_sender (hl : s.lif.line = .busy .frame)
    (hk : ∀ r, s.fe.rx = some r → s.tc.state ≠ .founding ∨ r.mark = true) (htx : s.fe.tx = some a)
    (hf : a.faulted = false) (hx : ∀ x, s.compares a x → ¬ s.runsOut a x (g - s.lif.lasted)) :
    s.gapDamaged g =
      { s.hit ((s.lif.gapHeard g).haltAfter 0) with
        fe := { (s.hit s.lif).fe with tx := some { a with faulted := true } } } := by
  have hpassed : s.stretchPassed g = { s with lif := s.lif.gapHeard g } :=
    State.stretchPassed_of_forall fun b x hb _ hcx => by
      obtain rfl := Option.some.inj (htx.symm.trans hb)
      exact hx x hcx
  have hline (line : LineState) (h : line ≠ .busy .frame) : (s.lif.gapHeard g).line ≠ line := by
    rw [Lif.gapHeard_line, hl]
    exact h.symm
  unfold State.gapDamaged
  rw [hpassed, State.damageSeen_of_sender (s := { s with lif := s.lif.gapHeard g }) (hline _ (by decide))
    (hline _ (by decide)) hk htx hf, State.hit_gapHeard, State.hit_gapHeard]
  rfl

variable {gap pulse : Stretch}

/-- A pulse with no place after a separation. -/
theorem exec_damage_of_frame (hr : s.pins.resetLow = false) (hg : Stretch.seen gap = some g)
    (hp : Stretch.seen pulse = some len) (hl : s.lif.line = .busy .frame) (h20 : 20 ≤ g) (h60 : g ≤ 60)
    (hlen : (5 ≤ len ∧ len < 20) ∨ (56 < len ∧ len < 64) ∨ (104 < len ∧ len < 400)) :
    exec (.damage (.pulse gap pulse)) s = .next (((s.stretchPassed g).pulsePassed len).damageSeen) := by
  have hread := readPulse_of_frameDamage hlen
  rw [exec_damage_pulse hr hg hp (by rw [hl]; exact readsDamage_of_frame hread (by omega))]
  unfold State.pulseEnded
  rw [hl]
  have hgap : ¬ isGapDamage g = true := by
    rw [isGapDamage_iff]
    omega
  have hpulse : s.frameStretchPulse g len = (s.stretchPassed g).framePulse len :=
    (if_neg hgap).trans (if_pos ((isSeparation_iff g).2 ⟨h20, h60⟩))
  simp only [hpulse, State.framePulse_of_damage hread]

/-- A pulse where a frame may begin that begins none. -/
theorem exec_damage_of_start (hr : s.pins.resetLow = false) (hg : Stretch.seen gap = some g)
    (hp : Stretch.seen pulse = some len)
    (hl : s.lif.line = .idle ∨ s.lif.line = .busy .pulse ∨ s.lif.line = .busy .haltRest ∨ s.lif.line = .busy .rest)
    (hlen : (5 ≤ len ∧ len < 160) ∨ (240 < len ∧ len < 400)) :
    exec (.damage (.pulse gap pulse)) s = .next (s.pulsePassed len).damageSeen := by
  have hread := readPulse_of_startDamage hlen
  rw [exec_damage_pulse hr hg hp (readsDamage_of_start hl hread g), State.pulseEnded_of_start hl,
    State.startPulse_of_damage hread]

/-- A pulse after a stretch that reads damage is one of UNSYNCED. -/
theorem exec_damage_of_gap (hr : s.pins.resetLow = false) (hg : Stretch.seen gap = some g)
    (hp : Stretch.seen pulse = some len) (hl : s.lif.line = .busy .frame) (hd : g < 20 ∨ (60 < g ∧ g < 140))
    (h5 : 5 ≤ len) (h1600 : len < 1600) :
    exec (.damage (.pulse gap pulse)) s = .next ((s.gapDamaged g).unsyncedPulse len) := by
  rw [exec_damage_pulse hr hg hp (by rw [hl]; exact readsDamage_of_gap h5 h1600 hd)]
  unfold State.pulseEnded
  rw [hl]
  exact congrArg Host.Outcome.next (if_pos ((isGapDamage_iff g).2 hd))

/-- A pulse in the REST that begins no frame, with nothing of the own on the line. -/
theorem exec_damage_of_rest (hr : s.pins.resetLow = false) (hg : Stretch.seen gap = some g)
    (hp : Stretch.seen pulse = some len) (hl : s.lif.line = .busy .rest)
    (hlen : (5 ≤ len ∧ len < 160) ∨ (240 < len ∧ len < 400)) (htx : s.fe.tx = none) (hrx : s.fe.rx = none) :
    ∃ u, s.readsUnreadable u ∧
      exec (.damage (.pulse gap pulse)) s =
        .next { u with
          lif := { s.lif.heard len with line := .unsynced }
          fe := { u.fe with yieldTimer := s.fe.yieldTimer } } := by
  obtain ⟨u, hu, hutx, -, hurx, -, hcut⟩ := State.cutRoll_unreadable (s := s) hr htx
  refine ⟨u, hu, ?_⟩
  have hidle : ({ s with lif := s.lif.heard len } : State).leaveIdle = { s with lif := s.lif.heard len } :=
    State.leaveIdle_of_not (by simp [Lif.heard, Lif.dominantTo, Lif.later, hl])
  have hdiscard := State.discardFrame_of_none (s := { u with
    lif := s.lif.heard len
    fe := { u.fe with yieldTimer := s.fe.yieldTimer } }) (hurx.trans hrx)
  rw [exec_damage_of_start hr hg hp (.inr (.inr (.inr hl))) hlen,
    State.pulsePassed_of_tested (State.pulseTested_of_none (State.underTest_of_tx_none htx) len)]
  unfold State.damageSeen
  rw [hidle, hcut (s.lif.heard len) (.inr hl), hdiscard]
  exact congrArg Host.Outcome.next (State.senderFault_of_none (s := { u with
    lif := { s.lif.heard len with line := .unsynced }
    fe := { u.fe with yieldTimer := s.fe.yieldTimer } }) (State.sending_of_tx_none hutx))

end

/-- A HALT with nothing of the own on the line and nothing in reception. -/
theorem State.halted_of_empty {s : State} {l : Lif} (htx : s.fe.tx = none) (hrx : s.fe.rx = none) (hl : l.line ≠ .idle) :
    ({ s with lif := l } : State).halted = { s with lif := l.resting, fe := { s.fe with hold := true } } := by
  unfold State.halted
  simp only [if_neg hl]
  exact congrArg₂ (fun (x : Option Attempt) (y : Option Reception) =>
    ({ s with lif := l.resting, fe := { s.fe with rx := y, tx := x, hold := true } } : State)) htx.symm hrx.symm

section
variable {s : State} {pulse : Stretch} {len : Nat}

theorem exec_quietCountReset_unsynced (hr : s.pins.resetLow = false) (hl : s.lif.line = .unsynced)
    (hp : s.lif.pulseLength pulse = some len) (hlen : (readPulse len).countsAgain = true) :
    exec (.quietCountReset pulse) s = .next { s with lif := s.lif.heard len } := by
  have hunsynced : s.unsyncedPulse len = { s with lif := s.lif.heard len } := by
    unfold State.unsyncedPulse
    rw [← Lif.pulse_eq_heard]
    cases hread : readPulse len with
    | openSymbol => simp [hread, PulseReading.countsAgain] at hlen
    | halt => simp [hread, PulseReading.countsAgain] at hlen
    | stuck => simp [hread, PulseReading.countsAgain] at hlen
    | _ => rfl
  change execQuietCountReset pulse s = _
  rw [execQuietCountReset, live_of_high hr, hl, hp]
  exact congrArg Host.Outcome.next ((if_pos hlen).trans ((State.pulseEnded_of_unsynced hl none len).trans hunsynced))

theorem exec_quietCountReset_stuck (hr : s.pins.resetLow = false) (hl : s.lif.line = .stuck)
    (hp : Stretch.seen pulse = some len) (h5 : 5 ≤ len) :
    exec (.quietCountReset pulse) s = .next { s with lif := s.lif.heard len } := by
  change execQuietCountReset pulse s = _
  rw [execQuietCountReset, live_of_high hr, hl, Lif.pulseLength_of_seen hp]
  exact congrArg Host.Outcome.next (State.pulseEnded_of_stuck hl h5 none)

/-- The lengths after which the count of quiet begins again. -/
theorem countsAgain_of_length (h : len < 160 ∨ (240 < len ∧ len < 400)) : (readPulse len).countsAgain = true := by
  cases hread : readPulse len with
  | openSymbol => exact absurd ((readPulse_eq_iff _ _).1 hread) (by simp only; omega)
  | halt => exact absurd ((readPulse_eq_iff _ _).1 hread) (by simp only; omega)
  | stuck => exact absurd ((readPulse_eq_iff _ _).1 hread) (by simp only; omega)
  | _ => rfl

end

/-- Settles O39: DAMAGE by line state and sender, and the ways back to IDLE. -/
theorem damageAndResynchronisation : Obligations.DamageAndResynchronisation := by
  refine ⟨fun s hr hk => ?_, fun s hr hl hlow hf => ?_, fun s pulse len hr hp hcase => ?_,
    fun s pulse len hr hl hlow hp hlen => ?_⟩
  · intro hit halted still damages
    have hkept : ∀ r, s.fe.rx = some r → s.tc.state ≠ .founding ∨ r.mark = true :=
      fun r hr' => (em (s.tc.state = .founding)).symm.imp id fun hs => hk hs r hr'
    refine ⟨fun gap g hg hl hd => ⟨fun hstill => ?_, fun a htx hf hx => ?_⟩, fun gap pulse g len hg hp => ?_⟩
    · rw [exec_damage_stretch hr hg hl hd, State.gapDamaged_of_still hl hkept hstill]
      rfl
    · rw [exec_damage_stretch hr hg hl hd, State.gapDamaged_of_sender hl hkept htx hf hx]
      rfl
    · intro early
      refine ⟨fun hl h20 h60 hlen => ⟨fun hstill => ?_, fun a htx hf hx => ?_⟩,
        fun hl hlen => ⟨fun hstill => ?_, fun a htx hf hx => ?_⟩, fun hl htx hrx hlen =>
          exec_damage_of_rest hr hg hp hl hlen htx hrx, fun hl hstill hd => ?_⟩
      · have hpassed : s.stretchPassed g = { s with lif := s.lif.gapHeard g } :=
          State.stretchPassed_of_forall fun b x hb hbf _ => by simp [hstill b hb] at hbf
        rw [exec_damage_of_frame hr hg hp hl h20 h60 hlen, hpassed,
          State.damagePulse_of_still (s := { s with lif := s.lif.gapHeard g }) (by simp [hl]) (by simp [hl]) hkept hstill,
          State.hit_gapHeard]
        rfl
      · have hearly := State.early_iff hx.1 hx.2
        have hpassed : s.stretchPassed g = { s with lif := s.lif.gapHeard g } :=
          State.stretchPassed_of_forall fun b x hb _ hcx => by
            obtain rfl := Option.some.inj (htx.symm.trans hb)
            exact fun hover => (hearly x hcx).1.2 hover.2.2
        rw [exec_damage_of_frame hr hg hp hl h20 h60 hlen, hpassed,
          State.damagePulse_of_sender (s := { s with lif := s.lif.gapHeard g }) (by simp [hl]) (by simp [hl]) hkept htx hf
            fun x hcx => ⟨State.startsWithin_gapHeard (hearly x (State.compares_gapHeard.1 hcx)).1.1,
              (hearly x (State.compares_gapHeard.1 hcx)).2⟩,
          State.hit_gapHeard, State.hit_gapHeard]
        rfl
      · have hline (line : LineState) (h1 : line ≠ .idle) (h2 : line ≠ .busy .pulse) (h3 : line ≠ .busy .haltRest) :
            s.lif.line ≠ line := by
          rintro rfl
          simp_all
        rw [exec_damage_of_start hr hg hp (by tauto) hlen,
          State.damagePulse_of_still (hline _ (by decide) (by decide) (by decide))
            (hline _ (by decide) (by decide) (by decide)) hkept hstill]
        rfl
      · have hline (line : LineState) (h1 : line ≠ .idle) (h2 : line ≠ .busy .pulse) (h3 : line ≠ .busy .haltRest) :
            s.lif.line ≠ line := by
          rintro rfl
          simp_all
        rw [exec_damage_of_start hr hg hp (by tauto) hlen,
          State.damagePulse_of_sender (hline _ (by decide) (by decide) (by decide))
            (hline _ (by decide) (by decide) (by decide)) hkept htx hf (State.early_iff hx.1 hx.2)]
        rfl
      · intro edge
        have hedge : s.gapDamaged g = edge := State.gapDamaged_of_still hl hkept hstill
        refine ⟨fun hlen => ?_, fun h160 h240 => ?_, fun h400 h1600 htx => ?_⟩
        · rw [exec_damage_of_gap hr hg hp hl hd (by omega) (by omega), hedge,
            State.unsyncedPulse_of_damage (readPulse_of_startDamage hlen)]
        · have hread : readPulse len = .openSymbol := (readPulse_eq_iff _ _).2 ⟨h160, h240⟩
          have hmark : ({ edge with lif := edge.lif.heard len } : State).marksOwn = false := by
            simp [State.marksOwn, edge, hit, Lif.heard, Lif.dominantTo, Lif.later]
          rw [exec_damage_of_gap hr hg hp hl hd (by omega) (by omega), hedge, State.unsyncedPulse_of_open hread,
            State.openSeen_of_noRoll (s := { edge with lif := edge.lif.heard len }) rfl, hmark]
          rfl
        · have hread : readPulse len = .halt := (readPulse_eq_iff _ _).2 ⟨h400, h1600⟩
          have hunsynced : edge.unsyncedPulse len = ({ edge with lif := edge.lif.heard len } : State).haltSeen := by
            unfold State.unsyncedPulse
            rw [hread, ← Lif.pulse_eq_heard]
            rfl
          rw [exec_damage_of_gap hr hg hp hl hd (by omega) (by omega), hedge, hunsynced,
            State.haltSeen_of_quiet (s := { edge with lif := edge.lif.heard len })
              (show LineState.unsynced ≠ .busy .roll by decide) (show LineState.unsynced ≠ .busy .rest by decide)
              (by simp [edge, hit, htx]) fun _ h => nomatch h]
          exact congrArg Host.Outcome.next (State.halted_of_empty (s := edge) (l := edge.lif.heard len) htx rfl
            (show LineState.unsynced ≠ .idle by decide))
  · have hidled := State.lineIdle_of_unfaulted (s := s.onLif (Lif.lastingTo 1920)) hf
    rw [exec_syncQuiet hr hl hlow, State.quietSynced, hidled, State.idled, State.onLif]
    simp only [Lif.lastingTo, Lif.pass_eq_later]
  · rcases hcase with ⟨hl, hlen⟩ | ⟨hl, h5⟩
    · exact exec_quietCountReset_unsynced hr hl (Lif.pulseLength_of_seen hp) (countsAgain_of_length (by omega))
    · exact exec_quietCountReset_stuck hr hl hp h5
  · exact exec_quietCountReset_unsynced hr hl ((if_pos ⟨hl, hlow⟩).trans hp) (countsAgain_of_length hlen)

end Sys2Proof.Machine
end

section
/-! SUPPORT. The sender's commands: ARBITRATION_LOST and the forms of BIT_FAULT, and what their tests find (O37). -/

namespace Sys2Proof.Machine

/-! ### The Line Interface at a test -/

/-- The HALT of a fault found at a point of a pulse counts from that point. -/
theorem Lif.dominantTo_haltAfter (n : Nat) (l : Lif) :
    ((l.dominantTo n).haltAfter 0).dominantTo n =
      { l.dominantTo n with drive := some { symbol := .haltSymbol, left := 480 } } := by
  cases hlow : l.low <;> simp [Lif.haltAfter_zero, Lif.dominantTo, Lif.later, hlow]

theorem Lif.later_ownHalt (t : Nat) (l : Lif) : l.ownHalt.later t = (l.later t).ownHalt := by
  cases hd : l.drive with
  | none => simp [Lif.ownHalt, Lif.later, hd]
  | some d =>
    by_cases hs : d.symbol = .haltSymbol
    · by_cases ht : t < d.left <;> simp [Lif.ownHalt, Lif.later, hd, hs, ht]
    · by_cases ht : t < d.left <;> simp [Lif.ownHalt, Lif.later, hd, hs, ht]

/-- A pulse that goes on after a loss found in it. -/
theorem Lif.heard_ownHalt {m n : Nat} (h : n ≤ m) (l : Lif) :
    ((l.dominantTo n).ownHalt).heard m = (l.heard m).ownHalt := by
  rw [← Lif.heard_dominantTo h l]
  generalize l.dominantTo n = k
  have hlater := Lif.later_ownHalt (if k.low then m - k.lasted else m) k
  exact congrArg (fun k : Lif => ({ k with low := false, lasted := 0 } : Lif)) hlater

/-! ### The commands (R171 to R173) -/

section
variable {s : State} {a : Attempt} {x : Symbol} {gap pulse : Stretch} {g len n : Nat}

theorem exec_arbitrationLost (hr : s.pins.resetLow = false) :
    exec .arbitrationLost s =
      .next (if s.underTest = some (.bit false) ∧ s.fe.rx.any Reception.inArbitration ∧ s.startOff = false then
        ({ s with lif := s.lif.dominantTo 60 } : State).testFailed (.bit false) true else s) := by
  rw [← Lif.dominantFor_eq]
  exact live_of_high hr _

theorem exec_bitFault_late (hr : s.pins.resetLow = false) (hu : s.underTest = some x) :
    exec (.bitFault .late) s =
      .next (if s.startOff then s.pulseFault x.window.2
        else ({ s with lif := s.lif.dominantTo x.window.2 } : State).testFailed x true) := by
  change execBitFault .late s = _
  rw [execBitFault, live_of_high hr, hu, ← Lif.dominantFor_eq]
  rfl

theorem exec_bitFault_early (hr : s.pins.resetLow = false) (hu : s.underTest = some x)
    (hp : Stretch.seen pulse = some len) (h : len < x.window.1) :
    exec (.bitFault (.early pulse)) s = .next (s.pulseFault len) := by
  change execBitFault (.early pulse) s = _
  rw [execBitFault, live_of_high hr, hu]
  simp only [hp]
  exact congrArg Host.Outcome.next (if_pos h)

theorem exec_bitFault_edge (hr : s.pins.resetLow = false) (hu : s.underTest = some x)
    (hg : Stretch.seen gap = some g) :
    exec (.bitFault (.edge gap)) s =
      .next (if s.lif.line = .busy .frame ∧ g < 20 then (s.stretchPassed g).senderFault else s) := by
  change execBitFault (.edge gap) s = _
  rw [execBitFault, live_of_high hr, hu]
  simp only [hg]

theorem exec_bitFault_damaged (hr : s.pins.resetLow = false) (hu : s.underTest = some x) (cause : DamageCause) :
    exec (.bitFault (.damaged cause)) s = .next (s.damageFault cause) := by
  change execBitFault (.damaged cause) s = _
  rw [execBitFault, live_of_high hr, hu]

theorem exec_bitFault_absent (hr : s.pins.resetLow = false) (hu : s.underTest = some x) (hn : s.pulseDue = some n) :
    exec (.bitFault .absent) s = .next (s.quietPassed n) := by
  change execBitFault .absent s = _
  rw [execBitFault, live_of_high hr, hu, hn]
  rfl

/-! ### What the tests of a pulse find -/

/-- A pulse that started within the own drive and ends by the second point: the fault is found where it ends. -/
theorem State.pulseFault_of_within (htx : s.fe.tx = some a) (hf : a.faulted = false) (hx : s.compares a x)
    (hs : s.startsWithin a x 0) (h2 : len ≤ x.window.2) :
    s.pulseFault len =
      { s with
        lif := { s.lif.dominantTo len with drive := some { symbol := .haltSymbol, left := 480 } }
        fe := { s.fe with tx := some { a with faulted := true } } } := by
  unfold State.pulseFault
  by_cases h1 : len < x.window.1
  · have htest := (State.pulseTested_of_early htx hf hx hs h2 h1).trans
      (State.testFailed_silent (s := { s with lif := s.lif.dominantTo len }) htx (.inr rfl))
    rw [htest]
    have hlif := (Lif.dominantFor_eq len _).trans (Lif.dominantTo_haltAfter len s.lif)
    have hstate : (({ s with
        lif := (s.lif.dominantTo len).haltAfter 0
        fe := { s.fe with tx := some { a with faulted := true } } } : State).onLif (Lif.dominantFor len)) =
        { s with
          lif := { s.lif.dominantTo len with drive := some { symbol := .haltSymbol, left := 480 } }
          fe := { s.fe with tx := some { a with faulted := true } } } :=
      congrArg (fun l : Lif => ({ s with lif := l, fe := { s.fe with tx := some { a with faulted := true } } } : State)) hlif
    rw [hstate]
    exact State.senderFault_of_none (State.sending_of_faulted fun b hb => by
      obtain rfl := Option.some.inj hb
      rfl)
  · have htest := State.pulseTested_of_within (State.underTest_of_compares htx hf hx)
      (State.startOff_of_startsWithin (State.underTest_of_compares htx hf hx) htx hs) (not_lt.1 h1) h2
    rw [htest, State.senderFault_of_unfaulted (s := s.onLif (Lif.dominantFor len)) htx hf, State.onLif_lif,
      Lif.dominantFor_eq]
    rfl

/-- A pulse whose bit was not asked for: the fault is found where it begins. -/
theorem State.pulseFault_of_unasked (htx : s.fe.tx = some a) (hf : a.faulted = false) (hx : s.compares a x)
    (ha : ¬ s.askedFor a) :
    s.pulseFault len =
      { s with lif := (s.lif.haltAfter 0).dominantTo len, fe := { s.fe with tx := some a.missing } } := by
  unfold State.pulseFault
  rw [State.pulseTested_of_unasked htx hf hx ha, ← Lif.dominantFor_eq]
  exact State.senderFault_of_none (State.sending_of_faulted fun b hb => by
    obtain rfl := Option.some.inj hb
    rfl)

end

end Sys2Proof.Machine
end

section
/-! SUPPORT. The tests of Table 8.7-1 at their points, by symbol and by what fails (O37). -/

namespace Sys2Proof.Machine

section
variable {s : State} {a : Attempt} {r : Reception} {x : Symbol} {gap pulse : Stretch} {g len left : Nat}

/-- ARBITRATION_LOST on an own BIT0 of the arbitration field that started within its drive. -/
theorem exec_arbitrationLost_of_bit (hr : s.pins.resetLow = false) (htx : s.fe.tx = some a) (hf : a.faulted = false)
    (hrx : s.fe.rx = some r) (hb : a.bits[r.bits.length]? = some false) (hs : s.startsWithin a (.bit false) 0)
    (h6 : r.bits.length < 6) :
    exec .arbitrationLost s =
      .next (({ s with lif := s.lif.dominantTo 60 } : State).testFailed (.bit false) true) := by
  have hu := State.underTest_of_compares htx hf (State.compares_bit hrx hb)
  have hfield : s.fe.rx.any Reception.inArbitration = true := by
    rw [hrx]
    exact decide_eq_true h6
  rw [exec_arbitrationLost hr, if_pos ⟨hu, hfield, State.startOff_of_startsWithin hu htx hs⟩]

/-- ARBITRATION_LOST where the own bit was not asked for. -/
theorem exec_arbitrationLost_of_unasked (hr : s.pins.resetLow = false) (htx : s.fe.tx = some a) (hf : a.faulted = false)
    (hx : s.compares a x) (ha : ¬ s.askedFor a) : exec .arbitrationLost s = .next s := by
  have hoff := State.startOff_of_unasked (State.underTest_of_compares htx hf hx) htx ha
  rw [exec_arbitrationLost hr, if_neg (by simp [hoff])]

/-- BIT_FAULT 'late' over a symbol whose pulse started within its drive. -/
theorem exec_late_of_within (hr : s.pins.resetLow = false) (htx : s.fe.tx = some a) (hf : a.faulted = false)
    (hx : s.compares a x) (hs : s.startsWithin a x 0) :
    exec (.bitFault .late) s =
      .next (({ s with lif := s.lif.dominantTo x.window.2 } : State).testFailed x true) := by
  have hu := State.underTest_of_compares htx hf hx
  rw [exec_bitFault_late hr hu, if_neg (by simp [State.startOff_of_startsWithin hu htx hs])]

/-- BIT_FAULT 'late' over an own OPEN or BIT1. -/
theorem exec_late_of_silent (hr : s.pins.resetLow = false) (htx : s.fe.tx = some a) (hf : a.faulted = false)
    (hx : s.compares a x) (hs : s.startsWithin a x 0) (hne : x ≠ .bit false) :
    exec (.bitFault .late) s =
      .next { s with
        lif := { s.lif.dominantTo x.window.2 with drive := some { symbol := .haltSymbol, left := 480 } }
        fe := { s.fe with tx := some { a with faulted := true } } } := by
  rw [exec_late_of_within hr htx hf hx hs,
    State.testFailed_silent (s := { s with lif := s.lif.dominantTo x.window.2 }) htx (.inl hne)]
  rfl

theorem exec_late_of_unasked (hr : s.pins.resetLow = false) (htx : s.fe.tx = some a) (hf : a.faulted = false)
    (hx : s.compares a x) (ha : ¬ s.askedFor a) :
    exec (.bitFault .late) s =
      .next { s with
        lif := (s.lif.haltAfter 0).dominantTo x.window.2
        fe := { s.fe with tx := some a.missing } } := by
  have hu := State.underTest_of_compares htx hf hx
  rw [exec_bitFault_late hr hu, if_pos (State.startOff_of_unasked hu htx ha), State.pulseFault_of_unasked htx hf hx ha]

theorem exec_early_of_within (hr : s.pins.resetLow = false) (htx : s.fe.tx = some a) (hf : a.faulted = false)
    (hx : s.compares a x) (hs : s.startsWithin a x 0) (hp : Stretch.seen pulse = some len) (h1 : len < x.window.1)
    (h2 : x.window.1 ≤ x.window.2) :
    exec (.bitFault (.early pulse)) s =
      .next { s with
        lif := { s.lif.dominantTo len with drive := some { symbol := .haltSymbol, left := 480 } }
        fe := { s.fe with tx := some { a with faulted := true } } } := by
  rw [exec_bitFault_early hr (State.underTest_of_compares htx hf hx) hp h1,
    State.pulseFault_of_within htx hf hx hs (by omega)]

theorem exec_early_of_unasked (hr : s.pins.resetLow = false) (htx : s.fe.tx = some a) (hf : a.faulted = false)
    (hx : s.compares a x) (ha : ¬ s.askedFor a) (hp : Stretch.seen pulse = some len) (h1 : len < x.window.1) :
    exec (.bitFault (.early pulse)) s =
      .next { s with lif := (s.lif.haltAfter 0).dominantTo len, fe := { s.fe with tx := some a.missing } } := by
  rw [exec_bitFault_early hr (State.underTest_of_compares htx hf hx) hp h1, State.pulseFault_of_unasked htx hf hx ha]

/-! ### Stretches -/

/-- A stretch in which the own drive does not run out. -/
theorem State.stretchPassed_of_kept (htx : s.fe.tx = some a)
    (h : ¬ s.runsOut a x (g - s.lif.lasted)) (hone : ∀ y, s.compares a y → y = x) :
    s.stretchPassed g = { s with lif := s.lif.gapHeard g } :=
  State.stretchPassed_of_forall fun b y hb _ hy => by
    obtain rfl := Option.some.inj (htx.symm.trans hb)
    rw [hone y hy]
    exact h

/-- A sender compares one symbol at a time. -/
theorem State.compares_unique {y : Symbol} (hx : s.compares a x) (hy : s.compares a y) : y = x := by
  unfold State.compares at hx hy
  cases hrx : s.fe.rx with
  | none =>
    simp only [hrx] at hx hy
    exact hy.2.trans hx.2.symm
  | some r =>
    simp only [hrx] at hx hy
    obtain ⟨b, hb, rfl⟩ := hx
    obtain ⟨c, hc, rfl⟩ := hy
    rw [Option.some.inj (hb.symm.trans hc)]

/-- The fault of an edge that comes where none may: it is found at that edge. -/
theorem State.edgeFault (htx : s.fe.tx = some a) (hf : a.faulted = false) (hx : s.compares a x)
    (h : ¬ s.runsOut a x (g - s.lif.lasted)) :
    (s.stretchPassed g).senderFault =
      { s with
        lif := { s.lif.gapHeard g with drive := some { symbol := .haltSymbol, left := 480 } }
        fe := { s.fe with tx := some { a with faulted := true } } } := by
  rw [State.stretchPassed_of_kept htx h fun y => State.compares_unique hx,
    State.senderFault_of_unfaulted (s := { s with lif := s.lif.gapHeard g }) htx hf]

theorem exec_edge_of_kept (hr : s.pins.resetLow = false) (htx : s.fe.tx = some a) (hf : a.faulted = false)
    (hx : s.compares a x) (hl : s.lif.line = .busy .frame) (hg : Stretch.seen gap = some g) (h20 : g < 20)
    (h : ¬ s.runsOut a x (g - s.lif.lasted)) :
    exec (.bitFault (.edge gap)) s =
      .next { s with
        lif := { s.lif.gapHeard g with drive := some { symbol := .haltSymbol, left := 480 } }
        fe := { s.fe with tx := some { a with faulted := true } } } := by
  rw [exec_bitFault_edge hr (State.underTest_of_compares htx hf hx) hg, if_pos ⟨hl, h20⟩, State.edgeFault htx hf hx h]

theorem State.damageFault_of_stretch (hl : s.lif.line = .busy .frame) (hg : Stretch.seen gap = some g)
    (hd : g < 20 ∨ (60 < g ∧ g < 140)) : s.damageFault (.stretch gap) = (s.stretchPassed g).senderFault := by
  unfold State.damageFault
  simp only [hg]
  exact if_pos ⟨hl, (isGapDamage_iff g).2 hd⟩

theorem State.damageFault_of_pulse (hg : Stretch.seen gap = some g) (hp : Stretch.seen pulse = some len)
    (hd : readsDamage s.lif.line g len = true) :
    s.damageFault (.pulse gap pulse) =
      if s.lif.line ≠ .busy .frame then s.pulseFault len
      else if isGapDamage g then (s.stretchPassed g).senderFault
      else (s.stretchPassed g).pulseFault len := by
  unfold State.damageFault
  simp only [hg, hp]
  exact if_neg (by simp [hd])

/-- A whole pulse on the filtered level lasts 1/8Q. -/
theorem Stretch.seen_ge (h : Stretch.seen pulse = some len) : 5 ≤ len := by
  cases pulse with
  | nil => simp [Stretch.seen] at h
  | cons first rest =>
    simp only [Stretch.seen] at h
    split at h
    · rename_i hc
      simp only [Bool.and_eq_true, decide_eq_true_eq] at hc
      have := Option.some.inj h
      omega
    · simp at h

/-- The own drive has run out before the edge that a report carries. -/
theorem State.runOutFault (htx : s.fe.tx = some a) (hlow : s.lif.low = false) (hn : s.pulseDue = some left)
    (ht : left ≤ g - s.lif.lasted) :
    (s.stretchPassed g).senderFault =
      { s with lif := (s.lif.haltAfter left).gapHeard g, fe := { s.fe with tx := some a.missing } } := by
  rw [State.stretchPassed_of_runOut hlow htx hn ht]
  exact State.senderFault_of_none (State.sending_of_faulted fun b hb => by
    obtain rfl := Option.some.inj hb
    rfl)

/-- BIT_FAULT 'absent': the own drive runs out with no pulse begun. -/
theorem exec_absent (hr : s.pins.resetLow = false) (htx : s.fe.tx = some a) (hf : a.faulted = false) (hx : s.compares a x)
    (hn : s.pulseDue = some left) :
    exec (.bitFault .absent) s =
      .next { s with lif := s.lif.haltAfter left, fe := { s.fe with tx := some a.missing } } := by
  rw [exec_bitFault_absent hr (State.underTest_of_compares htx hf hx) hn, State.quietPassed_of_runOut htx hn le_rfl,
    Nat.sub_self]
  rfl

end

/-! ### A pulse that runs past 1.5Q over an own BIT0 -/

section
variable {s : State} {a : Attempt} {r : Reception} {gap pulse : Stretch} {g len : Nat}

/-- Over a BIT0 of the arbitration field such a pulse is a loss, whatever it reads as. -/
theorem State.pulsePassed_of_lost (htx : s.fe.tx = some a) (hf : a.faulted = false) (hrx : s.fe.rx = some r)
    (hb : a.bits[r.bits.length]? = some false) (hs : s.startsWithin a (.bit false) 0) (hlen : 60 < len)
    (h6 : r.bits.length < 6) :
    s.pulsePassed len =
      { s with
        lif := (s.lif.heard len).ownHalt
        fe := { s.fe with tx := none, rx := some { r with mark := false } }
        ru := { s.ru with
          queue := s.ru.queue.map fun q => { q with onLine := false }
          touchOnLine := false } } := by
  have htest := (State.pulseTested_of_late htx hf (State.compares_bit hrx hb) hs hlen).trans
    (State.testFailed_lost (s := { s with lif := s.lif.dominantTo 60 }) hrx h6)
  unfold State.pulsePassed
  rw [htest, ← Lif.heard_ownHalt (show 60 ≤ len by omega), ← Lif.pulse_eq_heard]
  rfl

/-- Over a BIT0 after it such a pulse marks a duplicate. -/
theorem State.pulsePassed_of_suspected (htx : s.fe.tx = some a) (hf : a.faulted = false) (hrx : s.fe.rx = some r)
    (hb : a.bits[r.bits.length]? = some false) (hs : s.startsWithin a (.bit false) 0) (hlen : 60 < len)
    (h6 : 6 ≤ r.bits.length) :
    s.pulsePassed len =
      { s with
        hp := s.hp.post { kind := .duplicateSuspect, station := some s.self }
        lif := ((s.lif.dominantTo 60).haltAfter 0).heard len
        fe := { s.fe with tx := some { a with faulted := true } } } := by
  have htest := (State.pulseTested_of_late htx hf (State.compares_bit hrx hb) hs hlen).trans
    (State.testFailed_suspected (s := { s with lif := s.lif.dominantTo 60 }) htx hrx h6)
  unfold State.pulsePassed
  rw [htest, ← Lif.pulse_eq_heard]
  rfl

/-- The stretch before a pulse that starts within the own drive. -/
theorem State.stretchPassed_of_startsWithin (htx : s.fe.tx = some a) (hrx : s.fe.rx = some r)
    (hb : a.bits[r.bits.length]? = some false) (hs : s.startsWithin a (.bit false) (g - s.lif.lasted)) :
    s.stretchPassed g = { s with lif := s.lif.gapHeard g } :=
  State.stretchPassed_of_kept (x := .bit false) htx (fun h => hs.2 h.2.2) fun _ =>
    State.compares_unique (State.compares_bit hrx hb)

/-- DATA_BIT of BIT1 length over an own BIT0 of the arbitration field. -/
theorem exec_dataBit_of_lost (hr : s.pins.resetLow = false) (htx : s.fe.tx = some a) (hf : a.faulted = false)
    (hrx : s.fe.rx = some r) (hb : a.bits[r.bits.length]? = some false) (hl : s.lif.line = .busy .frame)
    (hg : Stretch.seen gap = some g) (hp : Stretch.seen pulse = some len) (h20 : 20 ≤ g) (h60 : g ≤ 60)
    (hs : s.startsWithin a (.bit false) (g - s.lif.lasted)) (h64 : 64 ≤ len) (h104 : len ≤ 104) (h6 : r.bits.length < 6) :
    exec (.dataBit gap pulse) s =
      .next { s with
        lif := ((s.lif.gapHeard g).heard len).ownHalt
        fe := { s.fe with
          tx := none
          rx := some { bits := r.bits ++ [true],
                       crc := if inCheckedBytes r.bits then crcBit r.crc true else r.crc, mark := false } }
        ru := { s.ru with
          queue := s.ru.queue.map fun q => { q with onLine := false }
          touchOnLine := false } } := by
  have hpassed := State.pulsePassed_of_lost (s := { s with lif := s.lif.gapHeard g }) (len := len) htx hf hrx hb
    (State.startsWithin_gapHeard hs.1) (by omega) h6
  have hstretch := congrArg (State.pulsePassed len) (State.stretchPassed_of_startsWithin htx hrx hb hs)
  rw [exec_dataBit_of (r := { r with mark := false }) hr hl hg hp h20 h60 (readPulse_of_bit (b := true) ⟨h64, h104⟩)
    (hstretch.trans hpassed) rfl]

/-- DATA_BIT of BIT1 length over an own BIT0 after the arbitration field. -/
theorem exec_dataBit_of_suspected (hr : s.pins.resetLow = false) (htx : s.fe.tx = some a) (hf : a.faulted = false)
    (hrx : s.fe.rx = some r) (hb : a.bits[r.bits.length]? = some false) (hl : s.lif.line = .busy .frame)
    (hg : Stretch.seen gap = some g) (hp : Stretch.seen pulse = some len) (h20 : 20 ≤ g) (h60 : g ≤ 60)
    (hs : s.startsWithin a (.bit false) (g - s.lif.lasted)) (h64 : 64 ≤ len) (h104 : len ≤ 104) (h6 : 6 ≤ r.bits.length) :
    exec (.dataBit gap pulse) s =
      .next { s with
        hp := s.hp.post { kind := .duplicateSuspect, station := some s.self }
        lif := (((s.lif.gapHeard g).dominantTo 60).haltAfter 0).heard len
        fe := { s.fe with
          tx := some { a with faulted := true }
          rx := some { bits := r.bits ++ [true],
                       crc := if inCheckedBytes r.bits then crcBit r.crc true else r.crc, mark := r.mark } } } := by
  have hpassed := State.pulsePassed_of_suspected (s := { s with lif := s.lif.gapHeard g }) (len := len) htx hf hrx hb
    (State.startsWithin_gapHeard hs.1) (by omega) h6
  have hstretch := congrArg (State.pulsePassed len) (State.stretchPassed_of_startsWithin htx hrx hb hs)
  rw [exec_dataBit_of (r := r) hr hl hg hp h20 h60 (readPulse_of_bit (b := true) ⟨h64, h104⟩) (hstretch.trans hpassed)
    hrx]
  rfl

/-- DAMAGE past 1.5Q over an own BIT0 of the arbitration field: the loss, then the discard. -/
theorem exec_damage_of_lost (hr : s.pins.resetLow = false) (htx : s.fe.tx = some a) (hf : a.faulted = false)
    (hrx : s.fe.rx = some r) (hb : a.bits[r.bits.length]? = some false) (hl : s.lif.line = .busy .frame)
    (hg : Stretch.seen gap = some g) (hp : Stretch.seen pulse = some len) (h20 : 20 ≤ g) (h60 : g ≤ 60)
    (hs : s.startsWithin a (.bit false) (g - s.lif.lasted)) (hlen : (60 < len ∧ len < 64) ∨ (104 < len ∧ len < 400))
    (h6 : r.bits.length < 6) (hfound : s.tc.state ≠ .founding) :
    exec (.damage (.pulse gap pulse)) s =
      .next { s with
        lif := { ((s.lif.gapHeard g).heard len).ownHalt with line := .unsynced }
        fe := { s.fe with tx := none, rx := none, hold := true }
        ru := { s.ru with
          queue := s.ru.queue.map fun q => { q with onLine := false }
          touchOnLine := false } } := by
  let v : State :=
    { s with
      lif := ((s.lif.gapHeard g).heard len).ownHalt
      fe := { s.fe with tx := none, rx := some { r with mark := false } }
      ru := { s.ru with
        queue := s.ru.queue.map fun q => { q with onLine := false }
        touchOnLine := false } }
  have hpassed : ({ s with lif := s.lif.gapHeard g } : State).pulsePassed len = v :=
    State.pulsePassed_of_lost (s := { s with lif := s.lif.gapHeard g }) htx hf hrx hb (State.startsWithin_gapHeard hs.1)
      (by omega) h6
  have hline : v.lif.line = .busy .frame := (Lif.gapHeard_line g s.lif).trans hl
  have hhit : v.hit v.lif =
      { v with
        lif := { v.lif with line := .unsynced }
        fe := { v.fe with rx := none, hold := true } } := by
    unfold State.hit
    rw [if_neg (by simp [hline])]
    simp only [v, Option.isSome_some, Bool.or_true]
  rw [exec_damage_of_frame hr hg hp hl h20 h60 (by omega), State.stretchPassed_of_startsWithin htx hrx hb hs, hpassed,
    State.damageSeen_of_still (s := v) (by simp [hline]) (by simp [hline]) (fun _ _ => .inl hfound)
      (fun _ h => nomatch h), hhit]

end

/-- Settles O37: each test at its point. -/
theorem senderTests : Obligations.SenderTests := by
  intro s a hr htx hf halt faulted missed suspected
  refine ⟨fun r hrx => ?_, fun hrx hl hs => ?_, fun hrx hl hlow left hd => ?_, fun x left hp hx hover hd hw hc => ?_⟩
  · intro lost own after
    have hlost (l : Lif) (hold : Bool) (rx : Option Reception) : lost l hold rx =
        { s with
          lif := l.ownHalt
          fe := { s.fe with tx := none, rx := rx, hold := s.fe.hold || hold }
          ru := { s.ru with
            queue := s.ru.queue.map fun q => { q with onLine := false }
            touchOnLine := false } } := rfl
    clear_value lost
    refine ⟨fun hb hs h6 => ?_, fun hb hs h6 => ?_, fun hb hs => ?_, fun b hb => ?_,
      fun gap pulse g len hg hp hl h20 h60 hb hs => ⟨fun h64 h104 => ⟨fun h6 => ?_, fun h6 => ?_⟩, fun hlen h6 hfound => ?_⟩⟩
    · have hlate := State.testFailed_lost (s := { s with lif := s.lif.dominantTo 60 }) hrx h6
      intro ended
      have hended : ({ s with lif := s.lif.dominantTo 60 } : State).testFailed (.bit false) true = ended := by
        simp only [ended, hlost, Bool.or_false]
        exact hlate
      rw [exec_arbitrationLost_of_bit hr htx hf hrx hb hs h6, hended, ← hended]
      exact ⟨rfl, exec_late_of_within hr htx hf (State.compares_bit hrx hb) hs⟩
    · rw [exec_late_of_within hr htx hf (State.compares_bit hrx hb) hs]
      exact congrArg Host.Outcome.next
        (State.testFailed_suspected (s := { s with lif := s.lif.dominantTo 60 }) htx hrx h6)
    · exact exec_late_of_silent hr htx hf (State.compares_bit hrx hb) hs (by decide)
    · have hx : s.compares a (.bit b) := State.compares_bit hrx hb
      have hwindow : (Symbol.bit b).window = (if b then 60 else 20, if b then 100 else 60) := by cases b <;> rfl
      refine ⟨fun pulse len hp hlen hs => ?_, fun hl gap g hg => ?_, fun ha => ?_, fun ha hl hlow left hd => ?_⟩
      · exact exec_early_of_within hr htx hf hx hs hp (by rw [hwindow]; exact hlen) (by cases b <;> decide)
      · intro runs
        refine ⟨fun h20 hn => exec_edge_of_kept hr htx hf hx hl hg h20 hn, fun hd hn => ?_,
          fun pulse len hp hlen hle => ⟨fun hd hn => ?_, fun h20 h60 hs => ?_⟩⟩
        · rw [exec_bitFault_damaged hr (State.underTest_of_compares htx hf hx), State.damageFault_of_stretch hl hg hd,
            State.edgeFault htx hf hx hn]
        all_goals
          have h5 := Stretch.seen_ge hp
          have hu := State.underTest_of_compares htx hf hx
          have hread : readsDamage s.lif.line g len = true := by
            rw [hl]
            exact readsDamage_of_frame (readPulse_of_frameDamage (by omega)) (by omega)
        · rw [exec_bitFault_damaged hr hu, State.damageFault_of_pulse hg hp hread, if_neg (by simp [hl]),
            if_pos ((isGapDamage_iff g).2 hd), State.edgeFault htx hf hx hn]
        · have hgap : ¬ isGapDamage g = true := by
            rw [isGapDamage_iff]
            omega
          rw [exec_bitFault_damaged hr hu, State.damageFault_of_pulse hg hp hread, if_neg (by simp [hl]), if_neg hgap,
            State.stretchPassed_of_kept htx (fun h => hs.2 h.2.2) fun _ => State.compares_unique hx]
          exact congrArg Host.Outcome.next (State.pulseFault_of_within (s := { s with lif := s.lif.gapHeard g }) htx hf
            (State.compares_gapHeard.2 hx) (State.startsWithin_gapHeard hs.1) (by rw [hwindow]; exact hle))
      · have hasked : ¬ s.askedFor a := fun h => absurd (h r hrx) (by omega)
        refine ⟨exec_arbitrationLost_of_unasked hr htx hf hx hasked, ?_, fun pulse len hp hlen =>
          exec_early_of_unasked hr htx hf hx hasked hp (by rw [hwindow]; exact hlen)⟩
        rw [exec_late_of_unasked hr htx hf hx hasked, hwindow]
      · have hasked : s.askedFor a := fun q hq => by
          obtain rfl := Option.some.inj (hrx.symm.trans hq)
          exact ha
        have hdue : s.pulseDue = some left := by
          rw [State.pulseDue_of_drive htx hf hx (.inl hl) hlow hasked, Lif.driveLeft_of_drive hd]
        have hu := State.underTest_of_compares htx hf hx
        refine ⟨exec_absent hr htx hf hx hdue, fun gap g hg h60 h140 hle => ⟨?_, ?_⟩⟩
        · rw [exec_bitFault_edge hr hu hg, if_neg (by omega)]
        · rw [exec_bitFault_damaged hr hu, State.damageFault_of_stretch hl hg (.inr ⟨h60, h140⟩),
            State.runOutFault htx hlow hdue hle]
    · rw [hlost, Bool.or_false]
      exact exec_dataBit_of_lost hr htx hf hrx hb hl hg hp h20 h60 hs h64 h104 h6
    · exact exec_dataBit_of_suspected hr htx hf hrx hb hl hg hp h20 h60 hs h64 h104 h6
    · rw [hlost, Bool.or_true]
      exact exec_damage_of_lost hr htx hf hrx hb hl hg hp h20 h60 hs hlen h6 hfound
  · have hx := State.compares_open (a := a) hrx hl
    refine ⟨exec_late_of_silent hr htx hf hx hs (by decide), fun pulse len hp => ⟨fun hlen =>
      exec_early_of_within hr htx hf hx hs hp hlen (by decide), fun gap g hg hlen => ?_⟩⟩
    have hread : readsDamage s.lif.line g len = true :=
      readsDamage_of_start (.inr (.inl hl)) (readPulse_of_startDamage (.inl ⟨Stretch.seen_ge hp, hlen⟩)) g
    rw [exec_bitFault_damaged hr (State.underTest_of_compares htx hf hx), State.damageFault_of_pulse hg hp hread,
      if_pos (by simp [hl]), State.pulseFault_of_within htx hf hx hs (show len ≤ 220 by omega)]
  · have hx := State.compares_open (a := a) hrx hl
    exact exec_absent hr htx hf hx (by
      rw [State.pulseDue_of_drive htx hf hx (.inr hl) hlow fun r hr' => by simp [hrx] at hr', Lif.driveLeft_of_drive hd])
  · obtain ⟨hl, ha, hlow, hle⟩ := hover
    have hdue : s.pulseDue = some left := by
      rw [State.pulseDue_of_drive htx hf hx hl hlow ha, Lif.driveLeft_of_drive hd]
    have hquiet := State.quietPassed_of_runOut htx hdue (hle left hd)
    have hlif : s.countQuantum.lif = (s.lif.haltAfter left).later (40 - left) := by
      unfold State.countQuantum
      rw [hquiet]
      rfl
    have hdull : s.countQuantum.lineDue = false := by
      unfold State.lineDue
      rw [hlif]
      rcases hl with hl | hl <;> simp [Lif.later, Lif.haltAfter, hlow, hl]
    have hwait : s.countQuantum.waitDue = false := by
      unfold State.countQuantum State.waitDue
      rw [hquiet]
      simp [State.onFe, State.onTc, State.onCu, hw]
    have hcopy : s.countQuantum.copyDue = false := by
      unfold State.countQuantum State.copyDue
      rw [hquiet]
      simp [State.onFe, State.onTc, State.onCu, hc]
    refine ⟨_, stepCarriesOutTheFrontCommand.2 s hp, ?_⟩
    rw [State.tick_of_timer hr hdull, State.fireTimer_of_neither hwait hcopy]
    refine ⟨hlif, ?_, ?_, ?_⟩ <;>
      · unfold State.countQuantum
        rw [hquiet]
        rfl

end Sys2Proof.Machine
end

section
/-! SUPPORT. The roll window: SLOT_READ reads each slot from the stretches that LRX showed (O31). -/

namespace Sys2Proof.Machine

/-! ### The stretches of a report (R145) -/

section
variable {x y z v w : Stretch} {a b c m n : Nat}

theorem stretchLengths_one (hx : Stretch.running x = some n) : stretchLengths x [] = some [n] := by
  simp [stretchLengths, stretchLengths.laterLengths, hx]

theorem stretchLengths_two (hx : Stretch.running x = some n) (hy : Stretch.running y = some m) :
    stretchLengths x [y] = some [n, m] := by
  simp [stretchLengths, stretchLengths.laterLengths, hx, hy]

theorem stretchLengths_three (hx : Stretch.running x = some n) (hy : Stretch.seen y = some m)
    (hz : Stretch.running z = some b) : stretchLengths x [y, z] = some [n, m, b] := by
  simp [stretchLengths, stretchLengths.laterLengths, hx, hy, hz]

theorem stretchLengths_five (hv : Stretch.running v = some a) (hw : Stretch.seen w = some m) (hx : Stretch.seen x = some b)
    (hy : Stretch.seen y = some n) (hz : Stretch.running z = some c) :
    stretchLengths v [w, x, y, z] = some [a, m, b, n, c] := by
  simp [stretchLengths, stretchLengths.laterLengths, hv, hw, hx, hy, hz]

/-- The first of the stretches is the one that stood there at the report before. -/
theorem stretchLengths_head {later : List Stretch} {runs : List Nat} (hx : Stretch.running x = some n)
    (h : stretchLengths x later = some runs) : runs.headD 0 = n := by
  unfold stretchLengths at h
  rw [hx, Option.bind_some, Option.map_eq_some_iff] at h
  obtain ⟨rest, -, rfl⟩ := h
  rfl

end

/-! ### The readings of a slot (R150) -/

section
variable {k : Nat} {pos : Int} {spoilt : Bool} {a b c m n h : Nat}

/-- A slot with no pulse. -/
theorem slotReport_of_quiet (hn : pos + n = 80) :
    slotReport k pos none spoilt [n] =
      some { reading := if spoilt then .damaged else .empty, low := false, lasted := n, time := n, held := none,
             spoilt := false } := by
  cases spoilt <;> simp [slotReport, pulsesFrom, slotDue, carriedLength, readSlot, levelAfter, lastedAfter, hn]

/-- One pulse in a slot is a valid one when it begins in the first half, ends there and is 0.5Q to 1.4Q long, and the slot's
start was free. -/
theorem readSlot_one (p : SlotPulse) :
    readSlot k spoilt [p] =
      if spoilt = false ∧ ((if k = 0 then -20 else 0) ≤ p.start ∧ p.start < 40) ∧ p.ended = true ∧ 20 ≤ p.len ∧ p.len ≤ 56
      then .asserted else .damaged := by
  have hhalf : p.inFirstHalf k = true ↔ (if k = 0 then -20 else 0) ≤ p.start ∧ p.start < 40 := by
    unfold SlotPulse.inFirstHalf
    split <;> simp
  cases spoilt with
  | true => rfl
  | false =>
    simp only [readSlot, Bool.and_eq_true, decide_eq_true_eq, hhalf, and_assoc, true_and]

theorem pulsesFrom_three (n m b : Nat) :
    pulsesFrom pos false [n, m, b] = [{ start := pos + n, len := m, ended := true }] := rfl

/-- A slot with one pulse that has ended. -/
theorem slotReport_of_pulse (hstart : pos + a < 80) (hend : pos + (a + m + b : Nat) = max 80 (pos + a + (min m 56 : Nat))) :
    slotReport k pos none spoilt [a, m, b] =
      some { reading := readSlot k spoilt [{ start := pos + a, len := m, ended := true }], low := false, lasted := b,
             time := a + m + b, held := none,
             spoilt := readSlot k spoilt [{ start := pos + a, len := m, ended := true }] != .asserted &&
               decide (80 < pos + (a + m : Nat)) } := by
  have hsum : pos + ([a, m, b].sum : Nat) = slotDue [{ start := pos + a, len := m, ended := true }] := by
    simp only [List.sum_cons, List.sum_nil, Nat.add_zero, ← Nat.add_assoc, slotDue, List.foldl_cons, List.foldl_nil, if_true]
    exact hend
  have hover : (SlotPulse.runsOver { start := pos + a, len := m, ended := true }) = decide (80 < pos + (a + m : Nat)) := by
    have e : pos + a + (m : Int) = pos + ((a + m : Nat) : Int) := by push_cast; ring
    simp only [SlotPulse.runsOver, hstart, decide_true, Bool.true_and, e]
  unfold slotReport
  simp only [Option.isSome_none, pulsesFrom_three, Bool.false_eq_true, if_false, Bool.false_or]
  rw [if_pos ⟨hsum, by simp [hstart], Nat.zero_lt_succ 399, by simp⟩]
  simp only [levelAfter, lastedAfter, List.any_cons, List.any_nil, Bool.or_false, hover, List.sum_cons, List.sum_nil]
  simp [Nat.add_assoc]

/-- A slot whose pulse is still on the line 1.4Q after its start. -/
theorem slotReport_of_long (hstart : pos + a < 80) (hend : pos + (a + m : Nat) = max 80 (pos + a + 56)) :
    slotReport k pos none spoilt [a, m] =
      some { reading := .damaged, low := true, lasted := m, time := a + m, held := some m,
             spoilt := decide (80 < pos + (a + m : Nat)) } := by
  have hsum : pos + ([a, m].sum : Nat) = slotDue [{ start := pos + a, len := m, ended := false }] := by
    simp only [List.sum_cons, List.sum_nil, Nat.add_zero, slotDue, List.foldl_cons, List.foldl_nil]
    exact hend
  have hover : (SlotPulse.runsOver { start := pos + a, len := m, ended := false }) = decide (80 < pos + (a + m : Nat)) := by
    have e : pos + a + (m : Int) = pos + ((a + m : Nat) : Int) := by push_cast; ring
    simp only [SlotPulse.runsOver, hstart, decide_true, Bool.true_and, e]
  have hread : readSlot k spoilt [{ start := pos + a, len := m, ended := false }] = .damaged := by
    rw [readSlot_one]
    exact if_neg (by simp)
  have hpulses : pulsesFrom pos false [a, m] = [{ start := pos + a, len := m, ended := false }] := rfl
  unfold slotReport
  simp only [Option.isSome_none, hpulses, Bool.false_eq_true, if_false, Bool.false_or]
  rw [if_pos ⟨hsum, by simp [hstart], Nat.zero_lt_succ 399, by simp⟩, hread]
  simp [levelAfter, lastedAfter, hover]

/-- A slot with two pulses. -/
theorem slotReport_of_two (hstart : pos + (a + m + b : Nat) < 80)
    (hend : pos + (a + m + b + n + c : Nat) =
      max (max 80 (pos + a + (min m 56 : Nat))) (max 80 (pos + (a + m + b : Nat) + (min n 56 : Nat)))) :
    slotReport k pos none spoilt [a, m, b, n, c] =
      some { reading := .damaged, low := false, lasted := c, time := a + m + b + n + c, held := none,
             spoilt := decide (80 < pos + (a + m + b + n : Nat)) } := by
  have e2 : pos + a + m + b = pos + ((a + m + b : Nat) : Int) := by push_cast; ring
  have hpulses : pulsesFrom pos false [a, m, b, n, c] =
      [{ start := pos + a, len := m, ended := true }, { start := pos + (a + m + b : Nat), len := n, ended := true }] := by
    rw [← e2]
    rfl
  have hsum : pos + ([a, m, b, n, c].sum : Nat) = slotDue
      [{ start := pos + a, len := m, ended := true }, { start := pos + (a + m + b : Nat), len := n, ended := true }] := by
    simp only [List.sum_cons, List.sum_nil, Nat.add_zero, ← Nat.add_assoc, slotDue, List.foldl_cons, List.foldl_nil]
    change pos + (a + m + b + n + c : Nat) =
      max (max 80 (pos + a + (min m 56 : Nat))) (pos + (a + m + b : Nat) + (min n 56 : Nat))
    omega
  have hfirst : (SlotPulse.runsOver { start := pos + a, len := m, ended := true }) = false := by
    simp only [SlotPulse.runsOver, Bool.and_eq_false_iff, decide_eq_false_iff_not]
    omega
  have hsecond : (SlotPulse.runsOver { start := pos + (a + m + b : Nat), len := n, ended := true }) =
      decide (80 < pos + (a + m + b + n : Nat)) := by
    have e : pos + ((a + m + b : Nat) : Int) + (n : Int) = pos + ((a + m + b + n : Nat) : Int) := by push_cast; ring
    simp only [SlotPulse.runsOver, hstart, decide_true, Bool.true_and, e]
  have hread (p q : SlotPulse) : readSlot k spoilt [p, q] = .damaged := by cases spoilt <;> rfl
  have hall : ([{ start := pos + a, len := m, ended := true }, { start := pos + (a + m + b : Nat), len := n, ended := true }] :
      List SlotPulse).all (fun p => p.start < 80) = true := by
    simp only [List.all_cons, List.all_nil, Bool.and_true, Bool.and_eq_true, decide_eq_true_eq]
    omega
  unfold slotReport
  simp only [Option.isSome_none, hpulses, Bool.false_eq_true, if_false, Bool.false_or]
  rw [if_pos ⟨hsum, hall, Nat.zero_lt_succ 399, by simp⟩, hread]
  simp only [List.any_cons, List.any_nil, Bool.or_false, hfirst, hsecond, Bool.false_or, List.sum_cons, List.sum_nil,
    Nat.add_zero, ← Nat.add_assoc]
  simp [levelAfter, lastedAfter]

/-- A pulse too long that has held the line through the slot. -/
theorem slotReport_of_held (hh : h + n < 400) (hn : pos + n = 80) :
    slotReport k pos (some h) spoilt [n] =
      some { reading := .damaged, low := true, lasted := h + n, time := n, held := some (h + n), spoilt := false } := by
  simp [slotReport, pulsesFrom, slotDue, carriedLength, readSlot, levelAfter, lastedAfter, hn, hh, SlotPulse.runsOver]

/-- A pulse too long that has ended in the slot. -/
theorem slotReport_of_released (hh : h + n < 400) (hn : pos + (n + b : Nat) = 80) :
    slotReport k pos (some h) spoilt [n, b] =
      some { reading := .damaged, low := false, lasted := b, time := n + b, held := none, spoilt := false } := by
  have hn' : pos + (n + b : Int) = 80 := by simpa using hn
  have hover : (SlotPulse.runsOver { start := pos, len := n, ended := true }) = false := by
    simp only [SlotPulse.runsOver, Bool.and_eq_false_iff, decide_eq_false_iff_not]
    omega
  simp [slotReport, pulsesFrom, slotDue, carriedLength, readSlot, levelAfter, lastedAfter, hn', hh, hover]

end

end Sys2Proof.Machine
end

section
/-! SUPPORT. OWN_SLOT_DRIVE and SLOT_READ (O31). -/

namespace Sys2Proof.Machine

/-! ### SLOT_READ -/

section
variable {s : State} {first : Stretch} {later : List Stretch} {runs : List Nat}

theorem exec_slotRead {r : SlotReport} (hr : s.pins.resetLow = false) (hl : s.lif.line = .busy .roll)
    (hopen : s.lif.low = false ∨ s.lif.lasted < 400) (hruns : stretchLengths first later = some runs)
    (hrep : slotReport s.fe.slots.length s.lif.slotAt s.lif.slotHeld s.lif.slotSpoilt runs = some r) :
    exec (.slotRead first later) s = .next (s.slotEnded s.fe.slots.length r) := by
  have hreached : s.lif.reachedHalt = false := by
    rw [← Bool.not_eq_true, Lif.reachedHalt_iff]
    rintro ⟨h1, h2⟩
    rcases hopen with h | h
    · simp [h] at h1
    · omega
  have hbind : (stretchLengths first later).bind
      (slotReport s.fe.slots.length s.lif.slotAt s.lif.slotHeld s.lif.slotSpoilt) = some r := by
    rw [hruns]
    exact hrep
  change execSlotRead first later s = _
  rw [execSlotRead, live_of_high hr]
  simp only [hbind]
  exact congrArg Host.Outcome.next (if_pos ⟨hl, hreached⟩)

/-- The report of a slot, field by field. -/
theorem exec_slotRead_reports {reading : SlotReading} {lasted time : Nat} {held0 held : Option Nat} {spoilt : Bool}
    (hr : s.pins.resetLow = false) (hl : s.lif.line = .busy .roll) (hopen : s.lif.low = false ∨ s.lif.lasted < 400)
    (hheld : s.lif.slotHeld = held0) (hruns : stretchLengths first later = some runs)
    (hrep : slotReport s.fe.slots.length s.lif.slotAt held0 s.lif.slotSpoilt runs =
      some { reading := reading, low := held.isSome, lasted := lasted, time := time, held := held, spoilt := spoilt }) :
    exec (.slotRead first later) s =
      .next { s with
        fe := { s.fe with
          slots := s.fe.slots ++ [reading]
          slotRequest := if s.fe.slots.length = s.self.val then false else s.fe.slotRequest }
        lif :=
          { line := if s.fe.slots.length = 15 then .busy .rest else .busy .roll
            drive := (s.lif.later (time - s.lif.sinceReport)).drive
            low := held.isSome, lasted := lasted + (s.lif.sinceReport - time), slotAt := s.lif.slotAt + time - 80
            sinceReport := s.lif.sinceReport - time, slotHeld := held, slotSpoilt := spoilt } } := by
  subst hheld
  have hrequest : (s.fe.slotRequest && s.fe.slots.length != s.self.val) =
      if s.fe.slots.length = s.self.val then false else s.fe.slotRequest := by
    by_cases h : s.fe.slots.length = s.self.val <;> simp [h]
  rw [exec_slotRead hr hl hopen hruns hrep]
  unfold State.slotEnded
  simp only [State.onFe, State.onLif, hrequest, Lif.slotReported, hl, Lif.pass_eq_later]

/-- Once a pulse has reached 10Q no slot is reported. -/
theorem exec_slotRead_of_over (hr : s.pins.resetLow = false)
    (hover : (s.lif.low = true ∧ 400 ≤ s.lif.lasted) ∨
      (∃ h n, s.lif.slotHeld = some h ∧ Stretch.running first = some n ∧ 400 ≤ h + n)) :
    exec (.slotRead first later) s = .next s := by
  change execSlotRead first later s = _
  rw [execSlotRead, live_of_high hr]
  simp only
  split
  · rename_i r hrep
    rw [Option.bind_eq_some_iff] at hrep
    obtain ⟨runs, hruns, hrep⟩ := hrep
    rcases hover with hover | ⟨h, n, hheld, hfirst, h400⟩
    · exact congrArg Host.Outcome.next (if_neg fun hc => by simp [(Lif.reachedHalt_iff s.lif).2 hover] at hc)
    · unfold slotReport at hrep
      simp only [Option.ite_none_right_eq_some] at hrep
      obtain ⟨⟨-, -, hcarried, -⟩, -⟩ := hrep
      rw [hheld] at hcarried
      simp only [carriedLength, Option.map_some, Option.getD_some, stretchLengths_head hfirst hruns] at hcarried
      omega
  · rfl

end

/-! ### OWN_SLOT_DRIVE -/

section
variable {s : State} {first : Stretch} {later : List Stretch} {runs : List Nat} {t : Nat}

theorem Lif.toOwnSlot_of {self : Station} {k : Nat} {l : Lif} (hk : k = self.val ∨ k + 1 = self.val)
    (ht : l.slotAt + l.sinceReport + t = 80 * ((self.val : Int) - k)) : l.toOwnSlot self k = some t := by
  have e : 80 * ((self.val : Int) - k) - (l.slotAt + l.sinceReport) = t := by omega
  unfold Lif.toOwnSlot
  simp only [e]
  rw [if_pos ⟨hk, Int.natCast_nonneg t⟩, Int.toNat_natCast]

/-- Where it is not due the command changes nothing. -/
theorem exec_ownSlotDrive_of_not (hr : s.pins.resetLow = false)
    (h : ∀ t runs, s.lif.toOwnSlot s.self s.fe.slots.length = some t → stretchLengths first later = some runs →
      ¬ (s.fe.slotRequest = true ∧ s.lif.windowOpen runs = true)) :
    exec (.ownSlotDrive first later) s = .next s := by
  change execOwnSlotDrive s first later = _
  rw [execOwnSlotDrive, live_of_high hr]
  split
  · rename_i t runs ht hruns
    exact congrArg Host.Outcome.next (if_neg fun hc => h t runs ht hruns ⟨hc.2.1, hc.2.2.2.1⟩)
  · rfl

/-- The own slot driven from its start. -/
theorem exec_ownSlotDrive (hr : s.pins.resetLow = false) (hl : s.lif.line = .busy .roll)
    (hk : s.fe.slots.length = s.self.val ∨ s.fe.slots.length + 1 = s.self.val)
    (hq : s.fe.slotRequest = true) (hd : s.lif.drive = none)
    (ht : s.lif.slotAt + s.lif.sinceReport + t = 80 * ((s.self.val : Int) - s.fe.slots.length))
    (hruns : stretchLengths first later = some runs)
    (hsum : s.lif.slotAt + (runs.sum : Nat) = 80 * ((s.self.val : Int) - s.fe.slots.length))
    (hopen : s.lif.windowOpen runs = true) :
    exec (.ownSlotDrive first later) s =
      .next { s with
        fe := { s.fe with slotRequest := false }
        lif :=
          { s.lif.later t with
            low := if runs.length = 1 then s.lif.low else levelAfter s.lif.slotHeld runs
            lasted := if runs.length = 1 then s.lif.lasted + t else lastedAfter s.lif.slotHeld runs
            drive := some { symbol := .slot, left := 40 } } } := by
  have hdue : runs.sum = s.lif.sinceReport + t := by omega
  have hfree : (s.lif.pass t).drive = none := by
    rw [Lif.pass_drive, hd]
    rfl
  change execOwnSlotDrive s first later = _
  rw [execOwnSlotDrive, live_of_high hr, Lif.toOwnSlot_of hk ht, hruns]
  refine congrArg Host.Outcome.next ((if_pos ⟨hl, hq, hdue, hopen, hfree⟩).trans ?_)
  simp only [State.onFe, State.onLif, Lif.atOwnSlot_eq]
  rfl

/-- A drive of one quantum is over after it. -/
theorem State.tick_drive (hr : s.pins.resetLow = false) (hl : s.lif.line = .busy .roll)
    (hd : s.lif.drive = some { symbol := .slot, left := 40 }) : s.tick.lif.drive = none := by
  have htimer (u : State) : u.fireTimer.lif = u.lif := congrArg (fun v => v.1) u.fireTimer_lineView
  have hline (u : State) (h1 : u.lif.line = .busy .roll) (h2 : u.lif.drive = none) : u.fireLine.lif.drive = none := by
    unfold State.fireLine
    split
    · split
      · exact u.stuckSeen_drive
      · rw [h1]
        exact h2
    · exact h2
  have hcount : s.countQuantum.lif = s.lif.pass 40 := by
    unfold State.countQuantum
    rw [State.quietPassed_of_none (State.pulseDue_of_line (by simp [hl]) (by simp [hl]))]
    rfl
  have h1 : s.countQuantum.lif.line = .busy .roll := by rw [hcount]; exact hl
  have h2 : s.countQuantum.lif.drive = none := by
    rw [hcount, Lif.pass_drive, hd]
    rfl
  unfold State.tick
  rw [if_neg (by simp [hr])]
  simp only
  split
  · split
    · rw [htimer]
      exact hline _ h1 h2
    · refine hline _ ?_ ?_ <;> rw [htimer]
      · exact h1
      · exact h2
  · rw [htimer]
    exact hline _ h1 h2

end

/-- Settles O31: the own slot's drive, and the reading of each slot. -/
theorem rollWindow : Obligations.RollWindow := by
  refine ⟨fun s hr hl hk => ?_, fun s first later hr _ hover => exec_slotRead_of_over hr hover, fun s hr hl hopen => ?_⟩
  · intro begins now start ended
    refine ⟨fun first later hc => ?_, fun first later h n hheld hfirst h400 => ?_, fun t hq hd hopen ht => ?_⟩
    · refine exec_ownSlotDrive_of_not hr fun t runs ht _ hboth => ?_
      obtain ⟨-, hstart⟩ := Lif.toOwnSlot_eq_some ht
      rcases hc with hc | hc | hc
      · simp [hc] at hboth
      · simp only [begins, now] at hc
        omega
      · exact ((Lif.windowOpen_iff runs s.lif).1 hboth.2).1 hc
    · refine exec_ownSlotDrive_of_not hr fun t runs _ hruns hboth => ?_
      have hcarried := ((Lif.windowOpen_iff runs s.lif).1 hboth.2).2 h hheld
      rw [stretchLengths_head hfirst hruns] at hcarried
      omega
    · intro drives
      have hdrives {first : Stretch} {later : List Stretch} {runs : List Nat} {low : Bool} {lasted : Nat}
          (hruns : stretchLengths first later = some runs) (hsum : start runs.sum = begins)
          (hcarried : ∀ h, s.lif.slotHeld = some h → h + runs.headD 0 < 400)
          (hlow : (if runs.length = 1 then s.lif.low else levelAfter s.lif.slotHeld runs) = low)
          (hlasted : (if runs.length = 1 then s.lif.lasted + t else lastedAfter s.lif.slotHeld runs) = lasted) :
          drives first later low lasted := by
        have hexec := exec_ownSlotDrive hr hl hk hq hd ht hruns hsum ((Lif.windowOpen_iff runs s.lif).2 ⟨hopen, hcarried⟩)
        rw [hlow, hlasted] at hexec
        refine ⟨hexec, fun hp => ⟨_, stepCarriesOutTheFrontCommand.2 _ hp, ?_⟩⟩
        unfold State.ltxLow
        rw [State.tick_drive hr (s := { s with
          fe := { s.fe with slotRequest := false }
          lif := { s.lif.later t with
            low := low, lasted := lasted, drive := some { symbol := .slot, left := 40 } } }) hl rfl]
        rfl
      refine ⟨fun hheld => ⟨fun x n hx hs => ?_, fun x y n m hx hy hs => ?_, fun x y z n m b hx hy hz hs => ?_⟩,
        fun h hheld => ⟨fun x n hx hh hs => ?_, fun x y n b hx hy hh hs => ?_, fun x y z n b m hx hy hz hh hs => ?_⟩⟩
      · exact hdrives (stretchLengths_one hx) hs (by simp [hheld]) rfl rfl
      · exact hdrives (stretchLengths_two hx hy) hs (by simp [hheld]) (by simp [hheld, levelAfter]) (by rw [hheld]; rfl)
      · exact hdrives (stretchLengths_three hx hy hz) (by simpa [Nat.add_assoc] using hs) (by simp [hheld])
          (by simp [hheld, levelAfter]) (by rw [hheld]; rfl)
      all_goals
        have hcarried : ∀ k, s.lif.slotHeld = some k → k + n < 400 := fun k hk' => by
          obtain rfl := Option.some.inj (hheld.symm.trans hk')
          exact hh
      · exact hdrives (stretchLengths_one hx) hs hcarried rfl rfl
      · exact hdrives (stretchLengths_two hx hy) hs hcarried (by simp [hheld, levelAfter]) (by rw [hheld]; rfl)
      · exact hdrives (stretchLengths_three hx hy hz) (by simpa [Nat.add_assoc] using hs) hcarried
          (by simp [hheld, levelAfter]) (by rw [hheld]; rfl)
  · intro k reported start due
    refine ⟨fun hheld => ⟨fun x n hx hs => ?_, fun x y z a m b hx hy hz hstart hend => ?_,
      fun x y a m hx hy hstart hend => ?_, fun v w x y z a m b n c hv hw hx hy hz hstart hend => ?_⟩,
      fun h hheld => ⟨fun x n hx hh hs => ?_, fun x y n b hx hy hh hs => ?_⟩⟩
    · exact exec_slotRead_reports (held := none) hr hl hopen hheld (stretchLengths_one hx) (slotReport_of_quiet hs)
    · intro fair
      have hfair : fair ↔ s.lif.slotSpoilt = false ∧
          ((if k = 0 then -20 else 0) ≤ s.lif.slotAt + (a : Int) ∧ s.lif.slotAt + (a : Int) < 40) ∧ true = true ∧ 20 ≤ m ∧
            m ≤ 56 := by
        simp only [fair, start, and_assoc, true_and]
      have hruns := stretchLengths_three hx hy hz
      have hrep := slotReport_of_pulse (k := k) (spoilt := s.lif.slotSpoilt) hstart hend
      rw [readSlot_one] at hrep
      refine ⟨fun hf => ?_, fun hf => ?_⟩
      · rw [if_pos (hfair.1 hf)] at hrep
        exact exec_slotRead_reports (held := none) hr hl hopen hheld hruns hrep
      · rw [if_neg fun h => hf (hfair.2 h)] at hrep
        exact exec_slotRead_reports (held := none) hr hl hopen hheld hruns hrep
    · exact exec_slotRead_reports (held := some m) hr hl hopen hheld (stretchLengths_two hx hy)
        (slotReport_of_long hstart hend)
    · exact exec_slotRead_reports (held := none) hr hl hopen hheld (stretchLengths_five hv hw hx hy hz)
        (slotReport_of_two hstart hend)
    · exact exec_slotRead_reports (held := some (h + n)) hr hl hopen hheld (stretchLengths_one hx)
        (slotReport_of_held hh hs)
    · exact exec_slotRead_reports (held := none) hr hl hopen hheld (stretchLengths_two hx hy)
        (slotReport_of_released hh hs)

end Sys2Proof.Machine
end
